-- ==== Sys2Proof/Word.lean ====
section
/-! DEFINITION. The words of the HugeInt ALU: a 128-bit value of two 64-bit words (spec/10_state.md R100), the 8-bit
command word (spec/30_encoding.md R300) and the 4-bit cause code (spec/60_exceptions.md R701). -/

namespace Sys2Proof

/-- One half of a value: `high` or `low` (R100). -/
abbrev Word64 := BitVec 64

/-- Every operand and every result (R100). A pattern has no sign of its own (R16). -/
abbrev Word128 := BitVec 128

/-- The command word CMD (R300). -/
abbrev Command := BitVec 8

end Sys2Proof
end

