-- ==== Sys2Proof/Config.lean ====
section
/-! DEFINITION. What an implementation fixes (the parameters of spec/00_scope.md section 4) and the values that the spec
leaves open (spec/10_state.md R112). -/

namespace Sys2Proof

/-- MUL_IMPL, the datapath of the multiplier (R12). No result depends on it (R505). -/
inductive MulImpl where
  | nativeWidening
  | schoolbook32
  | booth
  deriving DecidableEq, Repr

/-- HOST_WORD_ORDER, the order in which a host stores the two words of a value (R14). No rule of the block reads it. -/
inductive HostWordOrder where
  | lowFirst
  | highFirst
  deriving DecidableEq, Repr

/-- The operation classes that have a latency of their own (R13, R830). -/
inductive OpClass where
  | cmp
  | add
  | mul
  | div
  | shift
  | logic
  | misc
  deriving DecidableEq, Repr

/-- LAT_<class> in clock cycles, one number for each class (R13). -/
structure Latencies where
  cmp : Nat
  add : Nat
  mul : Nat
  div : Nat
  shift : Nat
  logic : Nat
  misc : Nat
  deriving DecidableEq, Repr

/-- The parameters of an implementation, R12 to R14. -/
structure Config where
  mulImpl : MulImpl
  latencies : Latencies
  hostWordOrder : HostWordOrder
  deriving DecidableEq, Repr

/-- LAT of one class (R830). -/
def Config.latency (c : Config) : OpClass → Nat
  | .cmp => c.latencies.cmp
  | .add => c.latencies.add
  | .mul => c.latencies.mul
  | .div => c.latencies.div
  | .shift => c.latencies.shift
  | .logic => c.latencies.logic
  | .misc => c.latencies.misc

/-- The parameters that `State.reset` holds: DESIGN CHOICE, log entry 2 (unsafe for a claim that rests on them; none
does). -/
def Config.atReset : Config :=
  { mulImpl := .nativeWidening
    latencies := { cmp := 1, add := 1, mul := 1, div := 1, shift := 1, logic := 1, misc := 1 }
    hostWordOrder := .lowFirst }

/-- The words of a value as a host stores them, lowest address first (R201). For host-level models only. -/
def HostWordOrder.store (o : HostWordOrder) (hi lo : Word64) : List Word64 :=
  match o with
  | .lowFirst => [lo, hi]
  | .highFirst => [hi, lo]

/-! Free values: R112 says "unspecified (any value)". Each is an opaque function of a counter of State (log entry 3). -/

/-- Y of a response with err = 1. -/
opaque Config.faultY : Nat → Word128
/-- Y2 of a response with err = 1. -/
opaque Config.faultY2 : Nat → Word128
/-- F of a response with err = 1. -/
opaque Config.faultF : Nat → Bool
/-- `rsp_y_hi` and `rsp_y_lo` in a cycle without a response. -/
opaque Config.idleY : Nat → Word128
/-- `rsp_y2_hi` and `rsp_y2_lo` in a cycle without a response. -/
opaque Config.idleY2 : Nat → Word128
/-- `rsp_f` in a cycle without a response. -/
opaque Config.idleF : Nat → Bool
/-- `rsp_err` in a cycle without a response. -/
opaque Config.idleErr : Nat → Bool
/-- `rsp_cause` in a cycle without a response. -/
opaque Config.idleCause : Nat → BitVec 4

/-! Before the first reset every output and STATUS are any value (spec/70_reset_and_hazards.md R802; log entry 8). -/

/-- STATUS before the first reset. -/
opaque Config.powerUpStatus : Nat → BitVec 8
/-- `st_status` before the first reset. -/
opaque Config.powerUpStStatus : Nat → BitVec 8
/-- `fault_irq` before the first reset. -/
opaque Config.powerUpFaultIrq : Nat → Bool
/-- `req_ready` before the first reset. -/
opaque Config.powerUpReqReady : Nat → Bool
/-- `rsp_valid` before the first reset. -/
opaque Config.powerUpRspValid : Nat → Bool

end Sys2Proof
end

