-- ==== Sys2Proof/Syntax.lean ====
section
/-! DEFINITION. The 22 commands of the opcode map (spec/30_encoding.md R310), each with the operands that its form reads
(R301), and the request that carries one. -/

namespace Sys2Proof

/-- A request: the record (CMD, A, B) of R301. -/
structure Request where
  cmd : Command
  a : Word128
  b : Word128
  deriving DecidableEq, Repr

/-- The operand forms of R301. -/
inductive Form where
  /-- Binary: A and B. -/
  | rr
  /-- Unary: A. B is ignored. -/
  | r
  /-- The low word of A. A.hi and B are ignored. -/
  | w64
  /-- Shift: A is the value, all 128 bits of B the amount. -/
  | rs
  deriving DecidableEq, Repr

/-- GRP, bits 4:3 of a command (R300). -/
inductive Group where
  | comparison
  | additive
  | mulDiv
  | shiftBitwise
  deriving DecidableEq, Repr

/-- One constructor for each row of the opcode map (R310). An operand that the form ignores (R301) is not there. -/
inductive Instr where
  /-- EQ, R410. -/
  | eq (a b : Word128)
  /-- NE, R411. -/
  | ne (a b : Word128)
  /-- LT, R412. -/
  | lt (a b : Word128)
  /-- LE, R413. -/
  | le (a b : Word128)
  /-- GT, R414. -/
  | gt (a b : Word128)
  /-- GE, R415. -/
  | ge (a b : Word128)
  /-- TRUTH, R416. -/
  | truth (a : Word128)
  /-- LNOT, R417. -/
  | lnot (a : Word128)
  /-- ADD, R460. -/
  | add (a b : Word128)
  /-- SUB, R461. -/
  | sub (a b : Word128)
  /-- NEG, R462. -/
  | neg (a : Word128)
  /-- ABS, R463. -/
  | abs (a : Word128)
  /-- SEXT64, R401: the operand is A.lo. -/
  | sext64 (v : Word64)
  /-- MUL, R510. -/
  | mul (a b : Word128)
  /-- DIV, R570. -/
  | div (a b : Word128)
  /-- REM, R571. -/
  | rem (a b : Word128)
  /-- SRA, R620: `b` is the amount. -/
  | sra (a b : Word128)
  /-- SLL, R621: `b` is the amount. -/
  | sll (a b : Word128)
  /-- AND, R630. -/
  | and (a b : Word128)
  /-- OR, R631. -/
  | or (a b : Word128)
  /-- XOR, R632. -/
  | xor (a b : Word128)
  /-- NOT, R633. -/
  | not (a : Word128)
  deriving DecidableEq, Repr

/-- The pseudo-instructions of R341. -/
inductive Pseudo where
  | mov (a : Word128)
  | inc (a : Word128)
  | dec (a : Word128)
  | isneg (a : Word128)
  | iszero (a : Word128)
  | divmod (a b : Word128)
  | mod (a b : Word128)
  | sar (a k : Word128)
  | shl (a k : Word128)
  | ld64 (v : Word64)
  deriving DecidableEq, Repr

end Sys2Proof
end

