-- ==== Sys2Proof/WellFormed.lean ====
section
/-! DEFINITION. What well-formed commands and parameters are. Every term of `Instr` is well formed, because R301 lets each
operand be any 128-bit value; what can be ill formed is a command word (spec/30_encoding.md R300, R320) and a choice of
latencies (spec/70_reset_and_hazards.md R830). -/

namespace Sys2Proof

/-- RSV, bits 7:5, is 000 (R300). -/
def Command.rsvZero (c : Command) : Bool := c.toNat / 32 == 0

/-- OPC, bits 4:0, is none of the unassigned codes of R320. -/
def Command.opcAssigned (c : Command) : Bool :=
  !([0x0D, 0x0E, 0x0F, 0x13, 0x14, 0x15, 0x16, 0x17, 0x1E, 0x1F] : List Nat).contains (c.toNat % 32)

/-- A command that is not reserved (R320). -/
def Command.wellFormed (c : Command) : Bool := c.rsvZero && c.opcAssigned

/-- A request whose command is not reserved. Its operands are free (R301). -/
def Request.wellFormed (r : Request) : Bool := Command.wellFormed r.cmd

/-- Every latency is at least 1 (R830). -/
def Config.wellFormed (c : Config) : Bool :=
  1 ≤ c.latencies.cmp && 1 ≤ c.latencies.add && 1 ≤ c.latencies.mul && 1 ≤ c.latencies.div &&
  1 ≤ c.latencies.shift && 1 ≤ c.latencies.logic && 1 ≤ c.latencies.misc

end Sys2Proof
end

