-- ==== Sys2Proof/Decode.lean ====
section
/-! DEFINITION. The decoder, total on every request and rejecting by name (spec/30_encoding.md R310, R311, R320), and after
it the encoder, written from the field table of R300; the pseudo-instructions and the assembler's operand rule (R340,
R341); the word helpers they use (spec/10_state.md R100). -/

namespace Sys2Proof

/-! ### Words of a value (R19, R100) -/

/-- `V.hi`, bits 127:64. -/
def hi (v : Word128) : Word64 := v.extractLsb' 64 64

/-- `V.lo`, bits 63:0. -/
def lo (v : Word128) : Word64 := v.extractLsb' 0 64

/-- `{hi, lo}`. -/
def words (h l : Word64) : Word128 := h ++ l

/-- `zext_128` of a 64-bit pattern (R18): how a host presents a word in A.lo. -/
def zext128 (v : Word64) : Word128 := words 0 v

/-! ### The opcode map (R310) -/

/-- One row of R310: CMD, mnemonic, operand form, and the instruction it selects with operands A and B. -/
structure OpcodeRow where
  cmd : Command
  mnemonic : String
  form : Form
  build : Word128 → Word128 → Instr

/-- The rows with GRP 00. -/
def comparisonRows : List OpcodeRow := [
  ⟨0x00, "EQ", .rr, fun a b => .eq a b⟩,
  ⟨0x01, "NE", .rr, fun a b => .ne a b⟩,
  ⟨0x02, "LT", .rr, fun a b => .lt a b⟩,
  ⟨0x03, "LE", .rr, fun a b => .le a b⟩,
  ⟨0x04, "GT", .rr, fun a b => .gt a b⟩,
  ⟨0x05, "GE", .rr, fun a b => .ge a b⟩,
  ⟨0x06, "TRUTH", .r, fun a _ => .truth a⟩,
  ⟨0x07, "LNOT", .r, fun a _ => .lnot a⟩]

/-- The rows with GRP 01. -/
def additiveRows : List OpcodeRow := [
  ⟨0x08, "ADD", .rr, fun a b => .add a b⟩,
  ⟨0x09, "SUB", .rr, fun a b => .sub a b⟩,
  ⟨0x0A, "NEG", .r, fun a _ => .neg a⟩,
  ⟨0x0B, "ABS", .r, fun a _ => .abs a⟩,
  ⟨0x0C, "SEXT64", .w64, fun a _ => .sext64 (lo a)⟩]

/-- The rows with GRP 10. -/
def mulDivRows : List OpcodeRow := [
  ⟨0x10, "MUL", .rr, fun a b => .mul a b⟩,
  ⟨0x11, "DIV", .rr, fun a b => .div a b⟩,
  ⟨0x12, "REM", .rr, fun a b => .rem a b⟩]

/-- The rows with GRP 11. -/
def shiftBitwiseRows : List OpcodeRow := [
  ⟨0x18, "SRA", .rs, fun a b => .sra a b⟩,
  ⟨0x19, "SLL", .rs, fun a b => .sll a b⟩,
  ⟨0x1A, "AND", .rr, fun a b => .and a b⟩,
  ⟨0x1B, "OR", .rr, fun a b => .or a b⟩,
  ⟨0x1C, "XOR", .rr, fun a b => .xor a b⟩,
  ⟨0x1D, "NOT", .r, fun a _ => .not a⟩]

/-- The whole opcode map, R310. -/
def opcodeMap : List OpcodeRow := comparisonRows ++ additiveRows ++ mulDivRows ++ shiftBitwiseRows

/-- Why a command is rejected (R320). -/
inductive Reserved where
  /-- RSV is not 000 (0x20 to 0xFF). -/
  | reservedField
  /-- RSV is 000 and OPC is not in R310. -/
  | unassignedOpcode
  deriving DecidableEq, Repr

/-- R311: the whole CMD is compared with the CMD column of R310, and the operands are never read to decide. -/
def decode (r : Request) : Except Reserved Instr :=
  match opcodeMap.find? (fun row => row.cmd == r.cmd) with
  | some row => .ok (row.build r.a r.b)
  | none => if Command.rsvZero r.cmd then .error .unassignedOpcode else .error .reservedField

/-- The instruction of a table word: CMD is its 8 bits, and the operands, which the table gives no bits, are zero. -/
def decodeTableWord (nbits w : Nat) : Option Instr :=
  match decode { cmd := BitVec.ofNat 8 (w % 2 ^ nbits), a := 0, b := 0 } with
  | .ok i => some i
  | .error _ => none

/-! ### The encoder (R300, R301) -/

/-- GRP of a group (R300). -/
def Group.code : Group → BitVec 2
  | .comparison => 0b00
  | .additive => 0b01
  | .mulDiv => 0b10
  | .shiftBitwise => 0b11

/-- GRP and SEL of an instruction: the group it stands in and its place there (R300, R310). -/
def Instr.groupSel : Instr → Group × BitVec 3
  | .eq _ _ => (.comparison, 0b000)
  | .ne _ _ => (.comparison, 0b001)
  | .lt _ _ => (.comparison, 0b010)
  | .le _ _ => (.comparison, 0b011)
  | .gt _ _ => (.comparison, 0b100)
  | .ge _ _ => (.comparison, 0b101)
  | .truth _ => (.comparison, 0b110)
  | .lnot _ => (.comparison, 0b111)
  | .add _ _ => (.additive, 0b000)
  | .sub _ _ => (.additive, 0b001)
  | .neg _ => (.additive, 0b010)
  | .abs _ => (.additive, 0b011)
  | .sext64 _ => (.additive, 0b100)
  | .mul _ _ => (.mulDiv, 0b000)
  | .div _ _ => (.mulDiv, 0b001)
  | .rem _ _ => (.mulDiv, 0b010)
  | .sra _ _ => (.shiftBitwise, 0b000)
  | .sll _ _ => (.shiftBitwise, 0b001)
  | .and _ _ => (.shiftBitwise, 0b010)
  | .or _ _ => (.shiftBitwise, 0b011)
  | .xor _ _ => (.shiftBitwise, 0b100)
  | .not _ => (.shiftBitwise, 0b101)

/-- The command word `{RSV, GRP, SEL}` with RSV = 000 (R300). -/
def Instr.command (i : Instr) : Command := (0b000#3 ++ i.groupSel.1.code) ++ i.groupSel.2

/-- A and B of the request that carries an instruction; an ignored operand is driven 0 (R340). -/
def Instr.operands : Instr → Word128 × Word128
  | .eq a b | .ne a b | .lt a b | .le a b | .gt a b | .ge a b => (a, b)
  | .truth a | .lnot a => (a, 0)
  | .add a b | .sub a b => (a, b)
  | .neg a | .abs a => (a, 0)
  | .sext64 v => (zext128 v, 0)
  | .mul a b | .div a b | .rem a b => (a, b)
  | .sra a b | .sll a b => (a, b)
  | .and a b | .or a b | .xor a b => (a, b)
  | .not a => (a, 0)

/-- The request that carries an instruction. -/
def encode (i : Instr) : Request := { cmd := i.command, a := i.operands.1, b := i.operands.2 }

/-- The class whose latency an instruction has (R830). -/
def Instr.opClass : Instr → OpClass
  | .eq _ _ | .ne _ _ | .lt _ _ | .le _ _ | .gt _ _ | .ge _ _ | .truth _ | .lnot _ => .cmp
  | .add _ _ | .sub _ _ | .neg _ | .abs _ => .add
  | .sext64 _ => .misc
  | .mul _ _ => .mul
  | .div _ _ | .rem _ _ => .div
  | .sra _ _ | .sll _ _ => .shift
  | .and _ _ | .or _ _ | .xor _ _ | .not _ => .logic

/-- The mnemonic of an instruction (R310). -/
def Instr.mnemonic : Instr → String
  | .eq _ _ => "EQ"
  | .ne _ _ => "NE"
  | .lt _ _ => "LT"
  | .le _ _ => "LE"
  | .gt _ _ => "GT"
  | .ge _ _ => "GE"
  | .truth _ => "TRUTH"
  | .lnot _ => "LNOT"
  | .add _ _ => "ADD"
  | .sub _ _ => "SUB"
  | .neg _ => "NEG"
  | .abs _ => "ABS"
  | .sext64 _ => "SEXT64"
  | .mul _ _ => "MUL"
  | .div _ _ => "DIV"
  | .rem _ _ => "REM"
  | .sra _ _ => "SRA"
  | .sll _ _ => "SLL"
  | .and _ _ => "AND"
  | .or _ _ => "OR"
  | .xor _ _ => "XOR"
  | .not _ => "NOT"

/-! ### Assembly (R340, R341) -/

/-- The expansion of a pseudo-instruction, exactly one instruction (R341). -/
def Pseudo.expand : Pseudo → Instr
  | .mov a => .or a 0
  | .inc a => .add a 1
  | .dec a => .sub a 1
  | .isneg a => .lt a 0
  | .iszero a => .lnot a
  | .divmod a b => .div a b
  | .mod a b => .rem a b
  | .sar a k => .sra a k
  | .shl a k => .sll a k
  | .ld64 v => .sext64 v

/-- R340: `<MNEMONIC> <a>[, <b>]` as a request. A unary operation omits `<b>`, and the assembler drives B = 0. -/
def assemble (mnemonic : String) (a : Word128) (b : Option Word128) : Option Request :=
  match opcodeMap.find? (fun row => row.mnemonic == mnemonic) with
  | none => none
  | some row =>
    match row.form, b with
    | .rr, some b => some { cmd := row.cmd, a := a, b := b }
    | .rs, some b => some { cmd := row.cmd, a := a, b := b }
    | .r, none => some { cmd := row.cmd, a := a, b := 0 }
    | .w64, none => some { cmd := row.cmd, a := a, b := 0 }
    | _, _ => none

/-- The value of an assembly operand written as a signed decimal integer (R19, R340). -/
def decimalOperand (n : Int) : Word128 := BitVec.ofInt 128 n

end Sys2Proof
end

