-- ==== Sys2Proof/Machine/Operands.lean ====
section
/-! DEFINITION. The named constants (spec/00_scope.md R21), and how operands are read: sign, extension and the shift amount
(R16, R18, spec/10_state.md R102, spec/44_shift_bitwise.md R600). -/

namespace Sys2Proof.Machine

/-- MIN, −2^127. -/
def MIN : Word128 := 0x80000000000000000000000000000000

/-- MAX, 2^127 − 1. -/
def MAX : Word128 := 0x7FFFFFFFFFFFFFFFFFFFFFFFFFFFFFFF

/-- NEG_ONE. -/
def NEG_ONE : Word128 := 0xFFFFFFFFFFFFFFFFFFFFFFFFFFFFFFFF

/-- SIGN64. -/
def SIGN64 : Word64 := 0x8000000000000000

/-- `V.hi <s 0` (R102). -/
def isNegative (v : Word128) : Bool := (hi v).slt 0

/-- `zext_64(bool(c))`. -/
def zextBool64 (c : Bool) : Word64 := if c then 1 else 0

/-- `zext_128(bool(c))`. -/
def zextBool128 (c : Bool) : Word128 := if c then 1 else 0

/-- FROM64, sign extension of a 64-bit pattern (R400). -/
def from64 (v : Word64) : Word128 := words (if v.getLsbD 63 then 0xFFFFFFFFFFFFFFFF else 0) v

/-- BIG(B): the amount is 128 or more (R600). -/
def bigAmount (b : Word128) : Bool := hi b != 0 || (128 : Word64).ule (lo b)

/-- The amount k when it is not big (R600). -/
def shiftAmount (b : Word128) : Nat := (lo b).toNat

end Sys2Proof.Machine
end

