-- ==== Sys2Proof/Machine/State.lean ====
section
/-! DEFINITION. The state of the block (spec/10_state.md), the signals the host drives and the signals the block drives
(the port table of spec/10_state.md section 2), and the reasons a step can stop. -/

namespace Sys2Proof.Machine

/-- The causes that a fault can have (R701). Code 0 means that there is no fault, and codes 4 to 15 are never produced. -/
inductive Cause where
  /-- ABS of MIN (R463). -/
  | absMin
  /-- A request with a reserved command (R702). -/
  | illegalCmd
  /-- The divider's internal left-shift helper called outside [1, 64) (R703). No instruction raises it. -/
  | shiftHelperRange
  deriving DecidableEq, Repr

/-- What one response carries (R111). With `err` set, `y`, `y2` and `f` are free values (R112). -/
structure Response where
  y : Word128
  y2 : Word128
  f : Bool
  err : Bool
  cause : BitVec 4
  deriving DecidableEq, Repr

/-- An accepted request whose response cycle is not over (R811). -/
structure Transaction where
  /-- Edges still to pass before the response cycle; 0 in the response cycle itself. -/
  wait : Nat
  /-- The response presented then. It is a function of the sampled request alone (R121), so it is held from acceptance on. -/
  response : Response
  deriving DecidableEq, Repr

/-- The signals the host drives in one cycle, sampled at the edge that ends it. -/
structure HostPins where
  rst : Bool
  reqValid : Bool
  reqCmd : Command
  reqAHi : Word64
  reqALo : Word64
  reqBHi : Word64
  reqBLo : Word64
  deriving DecidableEq, Repr

/-- The signals the block drives in one cycle. -/
structure Outputs where
  reqReady : Bool
  rspValid : Bool
  rspYHi : Word64
  rspYLo : Word64
  rspY2Hi : Word64
  rspY2Lo : Word64
  rspF : Bool
  rspErr : Bool
  rspCause : BitVec 4
  stStatus : BitVec 8
  faultIrq : Bool
  deriving DecidableEq, Repr

/-- The state of the block in one cycle, with the host's signals. `status` and `txn` are the block's own state (R120,
R150); `pins` is the outside world; `beforeFirstReset`, `config` and `freeIndex` are the model's (log entries 8, 2 and 3). -/
structure State where
  /-- No reset edge has come since power-up: every output and STATUS are any value (R802). -/
  beforeFirstReset : Bool
  /-- STATUS (R120). -/
  status : BitVec 8
  /-- The one transaction in progress, if any (R206, R811). -/
  txn : Option Transaction
  /-- What the host drives in this cycle and the ones after it; past the end it drives nothing (log entry 4). -/
  pins : List HostPins
  /-- The parameters of the implementation (R12 to R14). -/
  config : Config
  /-- Where the free values of this cycle are read; one more at every edge. -/
  freeIndex : Nat
  deriving DecidableEq, Repr

/-- A fault that ends a run. There is none: the faults of the spec (R700 to R714) are next states with STATUS written, a
FAULTED block goes on having clock edges, and nothing else of this hardware stops it. Safe: nothing is left out by it. -/
inductive Fault where
  deriving DecidableEq, Repr

/-- Why a step has no meaning. -/
inductive Refusal where
  /-- Raised by `exec` for an instruction without a meaning; there is none left. Safe. -/
  | notModelled (mnemonic : String)
  /-- Raised by `step` at an edge without reset, after the first reset, when STATUS.CAUSE is 4 to 15, which R701 says is never produced and
  spec/93_implementation_defined.md I8 lets a model refuse. Safe. -/
  | reservedCauseCode
  /-- Raised by `step` at an edge without reset, after the first reset, when STATUS bits 7:5 are not 0, which R120 says is never read and
  spec/93_implementation_defined.md I9 lets a model refuse. Safe. -/
  | reservedStatusBits
  deriving DecidableEq, Repr

/-- The block right after reset (R150): STATUS 0x00, no transaction, and a reset has come (R802). The other
three fields are DESIGN CHOICE, log entries 2, 3 and 4. -/
def State.reset : State :=
  { beforeFirstReset := false
    status := 0x00
    txn := none
    pins := []
    config := Config.atReset
    freeIndex := 0 }

end Sys2Proof.Machine
end

