-- ==== Sys2Proof/Machine/Ops.lean ====
section
/-! DEFINITION. The named operations on the state: the fields of STATUS, the request and response ports, the progress of a
transaction, taking a fault, and reset, the only return from one (spec/10_state.md, spec/60_exceptions.md sections 1 to 5,
spec/70_reset_and_hazards.md). The block has no register file and no memory (R130, R132). -/

namespace Sys2Proof.Machine

/-! ### STATUS (R120, R701) -/

/-- STATUS.FAULTED, bit 0. -/
def statusFaulted (st : BitVec 8) : Bool := st.getLsbD 0

/-- STATUS.CAUSE, bits 4:1. -/
def statusCause (st : BitVec 8) : BitVec 4 := st.extractLsb' 1 4

/-- STATUS bits 7:5, always 0. -/
def statusReserved (st : BitVec 8) : BitVec 3 := st.extractLsb' 5 3

/-- STATUS of a FAULTED block with cause `c`: FAULTED = 1, CAUSE = c, bits 7:5 = 0. -/
def faultStatus (c : BitVec 4) : BitVec 8 := (0#3 ++ c) ++ 1#1

/-- The cause codes of R701. -/
def Cause.code : Cause → BitVec 4
  | .absMin => 1
  | .illegalCmd => 2
  | .shiftHelperRange => 3

/-- The STATUS values that a model may refuse (spec/93_implementation_defined.md I8, I9; log entry 9). -/
def refusedStatus (st : BitVec 8) : Option Refusal :=
  if statusReserved st != 0 then some .reservedStatusBits
  else if (4 : BitVec 4).ule (statusCause st) then some .reservedCauseCode
  else none

/-! ### Ports -/

/-- A host that drives all its signals to 0: no reset, no request. -/
def idlePins : HostPins :=
  { rst := false, reqValid := false, reqCmd := 0, reqAHi := 0, reqALo := 0, reqBHi := 0, reqBLo := 0 }

/-- What the host drives in this cycle. -/
def currentPins (s : State) : HostPins := s.pins.headD idlePins

/-- The request on the request port: A = {req_a_hi, req_a_lo}, B = {req_b_hi, req_b_lo} (R110). -/
def HostPins.request (p : HostPins) : Request :=
  { cmd := p.reqCmd, a := words p.reqAHi p.reqALo, b := words p.reqBHi p.reqBLo }

/-- The pins of a host that offers a request and does not reset. -/
def offer (r : Request) : HostPins :=
  { rst := false, reqValid := true, reqCmd := r.cmd
    reqAHi := hi r.a, reqALo := lo r.a, reqBHi := hi r.b, reqBLo := lo r.b }

/-- No transaction is before its response cycle, and the block is not FAULTED (R711, R811). -/
def blockReady (s : State) : Bool :=
  !statusFaulted s.status && s.txn.all (fun t => t.wait == 0)

/-- `req_ready`: any value before the first reset (R802, log entry 8), after it 0 while `rst` is 1 (R800). -/
def reqReady (s : State) : Bool :=
  if s.beforeFirstReset then Config.powerUpReqReady s.freeIndex else !(currentPins s).rst && blockReady s

/-- The edge that ends this cycle accepts a request (R110, R810). -/
def accepts (s : State) : Bool := !(currentPins s).rst && (currentPins s).reqValid && reqReady s

/-- The response of a transaction that is presented in this cycle: none before the first reset (R802), none while `rst` is
1 (R800) and none outside a response cycle (R811). -/
def presented (s : State) : Option Response :=
  if s.beforeFirstReset || (currentPins s).rst then none
  else match s.txn with
    | some t => if t.wait == 0 then some t.response else none
    | none => none

/-- `rsp_valid`: any value before the first reset (R802). -/
def rspValid (s : State) : Bool :=
  if s.beforeFirstReset then Config.powerUpRspValid s.freeIndex else (presented s).isSome

/-- `st_status`: any value before the first reset (R802), after it STATUS (R120). -/
def stStatus (s : State) : BitVec 8 := if s.beforeFirstReset then Config.powerUpStStatus s.freeIndex else s.status

/-- `fault_irq`: any value before the first reset (R802), after it STATUS.FAULTED (R730). -/
def faultIrq (s : State) : Bool :=
  if s.beforeFirstReset then Config.powerUpFaultIrq s.freeIndex else statusFaulted s.status

/-- What the response lines show: the response, or any value (R111, R112). -/
def responseLines (s : State) : Response :=
  match presented s with
  | some r => r
  | none =>
    { y := Config.idleY s.freeIndex, y2 := Config.idleY2 s.freeIndex, f := Config.idleF s.freeIndex
      err := Config.idleErr s.freeIndex, cause := Config.idleCause s.freeIndex }

/-- All the signals the block drives. Reading them changes nothing (R204). -/
def outputs (s : State) : Outputs :=
  { reqReady := reqReady s
    rspValid := rspValid s
    rspYHi := hi (responseLines s).y
    rspYLo := lo (responseLines s).y
    rspY2Hi := hi (responseLines s).y2
    rspY2Lo := lo (responseLines s).y2
    rspF := (responseLines s).f
    rspErr := (responseLines s).err
    rspCause := (responseLines s).cause
    stStatus := stStatus s
    faultIrq := faultIrq s }

/-! ### Taking a fault, and reset -/

/-- Fault entry (R710): STATUS.FAULTED becomes 1 and STATUS.CAUSE the cause, and nothing else changes. `req_ready` is 0 from
then on, because `blockReady` reads FAULTED. -/
def takeFault (c : BitVec 4) (s : State) : State := { s with status := faultStatus c }

/-- Reset, the only way out of FAULTED (R712, R801): STATUS is cleared and a transaction in progress is abandoned. From
the first reset on, the outputs are those of the block's state (R802). -/
def applyReset (s : State) : State := { s with beforeFirstReset := false, status := 0x00, txn := none }

/-- An edge without reset before the first reset: STATUS is any value, as every output is (R802). What a request offered
there does cannot be told from outside: no output is fixed until the first reset, which abandons it (R801, log entry 8). -/
def powerUpEdge (s : State) : State := { s with status := Config.powerUpStatus s.freeIndex, txn := none }

/-! ### A transaction from acceptance to response -/

/-- The transaction is now `t`. If that is its response cycle and it faulted, the block takes the fault (R710, R814;
that STATUS is written in that cycle is DEDUCED, log entry 1). -/
def arrive (t : Transaction) (s : State) : State :=
  if t.wait == 0 && t.response.err then takeFault t.response.cause { s with txn := some t }
  else { s with txn := some t }

/-- A request of class `c` is accepted at edge e and will be answered by `r`: the response cycle is e + LAT − 1 (R811). -/
def launch (c : OpClass) (r : Response) (s : State) : State :=
  arrive { wait := s.config.latency c - 1, response := r } s

/-- An edge that accepts nothing: a response cycle is over after one cycle (R111), and a transaction before its response
cycle comes one edge nearer to it (R811). -/
def tick (s : State) : State :=
  match s.txn with
  | none => s
  | some t => if t.wait == 0 then { s with txn := none } else arrive { t with wait := t.wait - 1 } s

/-- One clock edge has passed: the host's next signals, and the next free values. -/
def advance (s : State) : State := { s with pins := s.pins.tail, freeIndex := s.freeIndex + 1 }

/-! ### How a meaning ends -/

/-- `Y <- y; Y2 <- y2; F <- f`, a response without a fault (R113, R700). -/
def respond (c : OpClass) (y y2 : Word128) (f : Bool) (s : State) : Host.Outcome State Fault Refusal :=
  .next (launch c { y := y, y2 := y2, f := f, err := false, cause := 0 } s)

/-- The boolean result convention of a comparison (R402). -/
def respondBool (c : Bool) (s : State) : Host.Outcome State Fault Refusal :=
  respond .cmp (zextBool128 c) 0 c s

/-- `raise Fault(c)` (R20, R710): the one response has err = 1 and the cause, and its Y, Y2 and F are any value (R112). -/
def raiseFault (c : OpClass) (k : Cause) (s : State) : Host.Outcome State Fault Refusal :=
  .next (launch c
    { y := Config.faultY s.freeIndex, y2 := Config.faultY2 s.freeIndex, f := Config.faultF s.freeIndex
      err := true, cause := k.code } s)

/-- A request with a reserved command (R320, R702), of class MISC (R830). -/
def execReserved (s : State) : Host.Outcome State Fault Refusal := raiseFault .misc .illegalCmd s

end Sys2Proof.Machine
end

