-- ==== Sys2Proof/Machine/Additive.lean ====
section
/-! DEFINITION. The additive core, spec/41_additive.md: the word-by-word adder, subtractor and negation, and ADD, SUB, NEG,
ABS. -/

namespace Sys2Proof.Machine

/-- The carry out of the low word, detected by comparison (R451). -/
def carry64 (a b : Word64) : Bool := (a + b).ult a

/-- The borrow out of the low word, detected by comparison (R453). -/
def borrow64 (a b : Word64) : Bool := a.ult (a - b)

/-- ADD128 (R451). -/
def add128 (a b : Word128) : Word128 :=
  words (hi a + hi b + zextBool64 (carry64 (lo a) (lo b))) (lo a + lo b)

/-- SUB128 (R453). -/
def sub128 (a b : Word128) : Word128 :=
  words (hi a - hi b - zextBool64 (borrow64 (lo a) (lo b))) (lo a - lo b)

/-- NEG128 (R455). -/
def neg128 (a : Word128) : Word128 := words (~~~(hi a) + zextBool64 (0 - lo a == 0)) (0 - lo a)

/-- MAG, the magnitude of an operand read unsigned (R457). -/
def mag (a : Word128) : Word128 := if isNegative a then neg128 a else a

/-- ADD (R460). -/
def execAdd (a b : Word128) (s : State) : Host.Outcome State Fault Refusal := respond .add (add128 a b) 0 false s

/-- SUB (R461). -/
def execSub (a b : Word128) (s : State) : Host.Outcome State Fault Refusal := respond .add (sub128 a b) 0 false s

/-- NEG (R462). -/
def execNeg (a : Word128) (s : State) : Host.Outcome State Fault Refusal := respond .add (neg128 a) 0 false s

/-- ABS (R463): a fault exactly when A = MIN. -/
def execAbs (a : Word128) (s : State) : Host.Outcome State Fault Refusal :=
  if a = MIN then raiseFault .add .absMin s else respond .add (mag a) 0 false s

end Sys2Proof.Machine
end

