-- ==== Sys2Proof/Machine/Flags.lean ====
section
/-! DEFINITION. The conditions that the boolean result F reports: the comparison primitives of
spec/40_representation_compare.md section 2. The block has no other flag (spec/10_state.md R114, R115). -/

namespace Sys2Proof.Machine

/-- SLT128, signed less-than by words (R403). -/
def slt128 (a b : Word128) : Bool := if hi a != hi b then (hi a).slt (hi b) else (lo a).ult (lo b)

/-- SEQ128, equality by words (R404). -/
def seq128 (a b : Word128) : Bool := hi a == hi b && lo a == lo b

end Sys2Proof.Machine
end

