-- ==== Sys2Proof/Machine/Compare.lean ====
section
/-! DEFINITION. Construction and comparison, spec/40_representation_compare.md: SEXT64, EQ, NE, LT, LE, GT, GE, TRUTH, LNOT. -/

namespace Sys2Proof.Machine

/-- SEXT64 (R401). -/
def execSext64 (v : Word64) (s : State) : Host.Outcome State Fault Refusal := respond .misc (from64 v) 0 false s

/-- EQ (R410). -/
def execEq (a b : Word128) (s : State) : Host.Outcome State Fault Refusal := respondBool (seq128 a b) s

/-- NE (R411). -/
def execNe (a b : Word128) (s : State) : Host.Outcome State Fault Refusal := respondBool (!seq128 a b) s

/-- LT (R412). -/
def execLt (a b : Word128) (s : State) : Host.Outcome State Fault Refusal := respondBool (slt128 a b) s

/-- LE (R413). -/
def execLe (a b : Word128) (s : State) : Host.Outcome State Fault Refusal :=
  respondBool (slt128 a b || seq128 a b) s

/-- GT (R414). -/
def execGt (a b : Word128) (s : State) : Host.Outcome State Fault Refusal := respondBool (slt128 b a) s

/-- GE (R415). -/
def execGe (a b : Word128) (s : State) : Host.Outcome State Fault Refusal := respondBool (!slt128 a b) s

/-- TRUTH (R416). -/
def execTruth (a : Word128) (s : State) : Host.Outcome State Fault Refusal := respondBool (!seq128 a 0) s

/-- LNOT (R417). -/
def execLnot (a : Word128) (s : State) : Host.Outcome State Fault Refusal := respondBool (seq128 a 0) s

end Sys2Proof.Machine
end

