-- ==== Sys2Proof/Machine/Divide.lean ====
section
/-! DEFINITION. The division and modulo core, spec/43_divide.md: the internal left-shift helper, the binary long-division
engine on magnitudes, the four cases of DIVMOD128, and DIV, REM. The engine answers a cause where its helper's
precondition would be violated (spec/60_exceptions.md R703). -/

namespace Sys2Proof.Machine

/-- The internal positive-magnitude left-shift helper, with its precondition 1 ≤ amount < 64 (R605, R703). -/
def shiftHelper (v : Word128) (amount : Nat) : Except Cause Word128 :=
  if 1 ≤ amount ∧ amount < 64 then .ok (v <<< amount) else .error .shiftHelperRange

/-- HIGHBIT of the low n bits of m. -/
def highBitBelow (m : Word128) : Nat → Nat
  | 0 => 0
  | n + 1 => if m.getLsbD n then n + 1 else highBitBelow m n

/-- HIGHBIT, the 1-based position of the highest set bit (R557). -/
def highBit (m : Word128) : Nat := highBitBelow m 128

/-- One iteration of the engine: `bit` is the next dividend bit, `v` the divisor, `q` and `r` the running quotient and
remainder (R556). -/
def divideStep (bit : Bool) (v q r : Word128) : Except Cause (Word128 × Word128) :=
  match shiftHelper q 1, shiftHelper r 1 with
  | .ok q', .ok r' =>
    let r'' := r' ||| zextBool128 bit
    if v.ule r'' then .ok (add128 q' 1, sub128 r'' v) else .ok (q', r'')
  | .error c, _ => .error c
  | _, .error c => .error c

/-- The engine's loop for i = n down to 1 (R556). A greater n than HIGHBIT gives the fixed-count form of R559. -/
def divideLoop (m v : Word128) : Nat → Word128 → Word128 → Except Cause (Word128 × Word128)
  | 0, q, r => .ok (q, r)
  | n + 1, q, r =>
    match divideStep (m.getLsbD n) v q r with
    | .ok (q', r') => divideLoop m v n q' r'
    | .error c => .error c

/-- UMAG_DIV (R556). -/
def umagDiv (m v : Word128) : Except Cause (Word128 × Word128) := divideLoop m v (highBit m) 0 0

/-- DIV_GENERAL (R555). -/
def divGeneral (x d : Word128) : Except Cause (Word128 × Word128) :=
  match umagDiv (mag x) (mag d) with
  | .ok (q, r) =>
    .ok (if isNegative x ^^ isNegative d then neg128 q else q, if isNegative x then neg128 r else r)
  | .error c => .error c

/-- DIV_MIN, for the dividend MIN (R554). -/
def divMin (d : Word128) : Except Cause (Word128 × Word128) :=
  match divGeneral (add128 MIN 1) d with
  | .ok (q, r) =>
    if add128 (mag r) 1 = mag d then .ok (if isNegative d then add128 q 1 else sub128 q 1, 0)
    else .ok (q, sub128 r 1)
  | .error c => .error c

/-- DIVMOD128, the four cases in the order of R551: divisor 0 (R552), divisor MIN (R553), dividend MIN, general. -/
def divmod128 (x d : Word128) : Except Cause (Word128 × Word128) :=
  if d = 0 then .ok (0, x)
  else if d = MIN then .ok (if x = MIN then (1, 0) else (0, x))
  else if x = MIN then divMin d
  else divGeneral x d

/-- DIV: quotient in Y, remainder in Y2 (R570). -/
def execDiv (a b : Word128) (s : State) : Host.Outcome State Fault Refusal :=
  match divmod128 a b with
  | .ok (q, r) => respond .div q r false s
  | .error c => raiseFault .div c s

/-- REM: remainder in Y, quotient in Y2 (R571). -/
def execRem (a b : Word128) (s : State) : Host.Outcome State Fault Refusal :=
  match divmod128 a b with
  | .ok (q, r) => respond .div r q false s
  | .error c => raiseFault .div c s

end Sys2Proof.Machine
end

