-- ==== Sys2Proof/Machine/Multiply.lean ====
section
/-! DEFINITION. The multiplicative core, spec/42_multiply.md: the three datapaths for the magnitude product, the signs
around it, and MUL. -/

namespace Sys2Proof.Machine

/-- `native_widening`: the low 128 bits of the product of the unsigned readings (R501, R502). -/
def umulNative (x y : Word128) : Word128 := BitVec.ofNat 128 (x.toNat * y.toNat)

/-- The i-th 32-bit limb, bits 32i+31 to 32i (R503). -/
def limb (v : Word128) (i : Nat) : Nat := (v.extractLsb' (32 * i) 32).toNat

/-- The sum of `f i j` over i + j = k. -/
def sumOver (f : Nat → Nat → Nat) (k : Nat) : Nat := ((List.range (k + 1)).map (fun i => f i (k - i))).sum

/-- The accumulator of result limb k: the carry, the low halves of the products with i + j = k, and the high halves of
those with i + j = k − 1 (R503). -/
def limbColumn (x y : Word128) (carry : Nat) : Nat → Nat
  | 0 => carry + sumOver (fun i j => limb x i * limb y j % 2 ^ 32) 0
  | k + 1 =>
    carry + sumOver (fun i j => limb x i * limb y j % 2 ^ 32) (k + 1) + sumOver (fun i j => limb x i * limb y j / 2 ^ 32) k

/-- `schoolbook32` (R503): four limbs of the result, {r[3], r[2], r[1], r[0]}, each the accumulator's
low 32 bits and with the carry of the limb below. -/
def umulSchoolbook (x y : Word128) : Word128 :=
  let c0 := limbColumn x y 0 0
  let c1 := limbColumn x y (c0 / 2 ^ 32) 1
  let c2 := limbColumn x y (c1 / 2 ^ 32) 2
  let c3 := limbColumn x y (c2 / 2 ^ 32) 3
  BitVec.ofNat 128
    (c3 % 2 ^ 32 * 2 ^ 96 + c2 % 2 ^ 32 * 2 ^ 64 + c1 % 2 ^ 32 * 2 ^ 32 + c0 % 2 ^ 32)

/-- The multiple of `x` that radix-2 Booth recoding of `y` selects at bit i: y[i−1] − y[i] times x·2^i (R504; PRESUMED, log
entry 7). -/
def boothTerm (x y : Word128) (i : Nat) : Word128 :=
  let previous := if i = 0 then false else y.getLsbD (i - 1)
  match previous, y.getLsbD i with
  | true, false => x <<< i
  | false, true => 0 - (x <<< i)
  | _, _ => 0

/-- The sum of the multiples selected at bits n − 1 to 0. -/
def boothSum (x y : Word128) : Nat → Word128
  | 0 => 0
  | n + 1 => boothSum x y n + boothTerm x y n

/-- `booth` (R504). -/
def umulBooth (x y : Word128) : Word128 := boothSum x y 128

/-- UMUL128 by the datapath that MUL_IMPL names (R12, R501). -/
def umul128 (m : MulImpl) (x y : Word128) : Word128 :=
  match m with
  | .nativeWidening => umulNative x y
  | .schoolbook32 => umulSchoolbook x y
  | .booth => umulBooth x y

/-- MUL128: strip the signs, multiply the magnitudes, put the sign back (R500, R501, R506). -/
def mul128 (m : MulImpl) (a b : Word128) : Word128 :=
  let p := umul128 m (mag a) (mag b)
  if isNegative a ^^ isNegative b then neg128 p else p

/-- MUL (R510). -/
def execMul (a b : Word128) (s : State) : Host.Outcome State Fault Refusal :=
  respond .mul (mul128 s.config.mulImpl a b) 0 false s

end Sys2Proof.Machine
end

