-- ==== Sys2Proof/Machine/ShiftBitwise.lean ====
section
/-! DEFINITION. The shift and bitwise core, spec/44_shift_bitwise.md: SRA, SLL, AND, OR, XOR, NOT. -/

namespace Sys2Proof.Machine

/-- SRA128, case by case on the words (R601). -/
def sra128 (a b : Word128) : Word128 :=
  let k := shiftAmount b
  if bigAmount b then 0
  else if k = 0 then a
  else if k = 64 then words ((hi a).sshiftRight 63) (hi a)
  else if k < 64 then words ((hi a).sshiftRight k) ((hi a <<< (64 - k)) ||| (lo a >>> k))
  else words ((hi a).sshiftRight 63) ((hi a).sshiftRight (k - 64))

/-- SLL128, case by case on the words; the top bit is cleared for every amount from 1 to 127 (R603). -/
def sll128 (a b : Word128) : Word128 :=
  let k := shiftAmount b
  if isNegative a then 0
  else if bigAmount b then 0
  else if k = 0 then a
  else if k < 64 then words (((hi a <<< k) ||| (lo a >>> (64 - k))) &&& ~~~SIGN64) (lo a <<< k)
  else if k = 64 then words (lo a &&& ~~~SIGN64) 0
  else words ((lo a <<< (k - 64)) &&& ~~~SIGN64) 0

/-- SRA (R620). -/
def execSra (a b : Word128) (s : State) : Host.Outcome State Fault Refusal := respond .shift (sra128 a b) 0 false s

/-- SLL (R621). -/
def execSll (a b : Word128) (s : State) : Host.Outcome State Fault Refusal := respond .shift (sll128 a b) 0 false s

/-- AND (R630). -/
def execAnd (a b : Word128) (s : State) : Host.Outcome State Fault Refusal :=
  respond .logic (words (hi a &&& hi b) (lo a &&& lo b)) 0 false s

/-- OR (R631). -/
def execOr (a b : Word128) (s : State) : Host.Outcome State Fault Refusal :=
  respond .logic (words (hi a ||| hi b) (lo a ||| lo b)) 0 false s

/-- XOR (R632). -/
def execXor (a b : Word128) (s : State) : Host.Outcome State Fault Refusal :=
  respond .logic (words (hi a ^^^ hi b) (lo a ^^^ lo b)) 0 false s

/-- NOT (R633). -/
def execNot (a : Word128) (s : State) : Host.Outcome State Fault Refusal :=
  respond .logic (words (~~~(hi a)) (~~~(lo a))) 0 false s

end Sys2Proof.Machine
end

