-- ==== Sys2Proof/Machine/Step.lean ====
section
/-! DEFINITION. One rising edge of `clk` (spec/70_reset_and_hazards.md R799). -/

namespace Sys2Proof.Machine

/-- At the edge that ends the cycle of `s`: `rst` resets the block from any state (R800, R801); before the first reset any
other edge leaves everything any value (R802); after it, a request that is offered
and accepted is decoded and executed (R700, R810); at any other edge a transaction in progress goes on, and a FAULTED
block accepts nothing (R711, R811). -/
def step (s : State) : Host.Outcome State Fault Refusal :=
  if (currentPins s).rst then .next (applyReset (advance s))
  else if s.beforeFirstReset then .next (powerUpEdge (advance s))
  else match refusedStatus s.status with
    | some r => .refused r
    | none =>
      if accepts s then
        match decode (currentPins s).request with
        | .ok i => exec i (advance s)
        | .error _ => execReserved (advance s)
      else .next (tick (advance s))

/-- The host offers the table word `w` (its operands, which the table gives no bits, are zero) in this cycle in place of
whatever it drove. Where the block could not accept it (no reset has come, it is FAULTED, or a transaction is before its response cycle, or
STATUS is refused), the block is first put in the state reset leaves (log entry 4). -/
def State.withFetchWord (s : State) (nbits w : Nat) : State :=
  let pins := offer { cmd := BitVec.ofNat 8 (w % 2 ^ nbits), a := 0, b := 0 } :: s.pins.tail
  if !s.beforeFirstReset && blockReady s && (refusedStatus s.status).isNone then { s with pins := pins }
  else { applyReset s with pins := pins }

end Sys2Proof.Machine
end

