-- ==== Sys2Proof/Safety.lean ====
section
/-! DEFINITION. The terms that the statements about the block use: the states a request's answer leads to, what the host
drives at an edge, and the invariant of the states that runs reach. -/

namespace Sys2Proof.Machine

/-- The state after an accepted request of class `c` whose response, with Y, Y2 and F as given and no fault, comes
LAT − 1 edges later (R113, R811). Everything else is as in `s`. -/
def answered (c : OpClass) (y y2 : Word128) (f : Bool) (s : State) : State :=
  { s with
    txn := some
      { wait := s.config.latency c - 1
        response := { y := y, y2 := y2, f := f, err := false, cause := 0 } } }

/-- `t` is the state after an accepted request of class `c` that faults with cause code `k`: some response with err = 1
comes LAT − 1 edges later, its Y, Y2 and F any value (R112), and STATUS is written (R710) in the response cycle (DEDUCED
from R814, log entry 1), which is this cycle when LAT is 1 (or 0, log entry 11). Everything else is as in `s`. -/
def FaultAnswered (c : OpClass) (k : BitVec 4) (s t : State) : Prop :=
  ∃ r : Response, r.err = true ∧ r.cause = k ∧
    t = { s with
          txn := some { wait := s.config.latency c - 1, response := r }
          status := if s.config.latency c ≤ 1 then faultStatus k else s.status }

/-- What the host drives j cycles after this one. -/
def pinsAt (s : State) (j : Nat) : HostPins := s.pins.getD j idlePins

/-- `n` clock edges. -/
def edges (n : Nat) (s : State) : Host.Outcome State Fault Refusal := Sys2Proof.core.run n s

/-- A STATUS value that the block produces: not FAULTED with cause 0, or FAULTED with cause 1 or 2 (R120, R701, R703). -/
def LegalStatus (st : BitVec 8) : Prop :=
  statusReserved st = 0 ∧
    ((statusFaulted st = false ∧ statusCause st = 0) ∨
      (statusFaulted st = true ∧ (statusCause st = 1 ∨ statusCause st = 2)))

/-- A response that the block produces (R111, R701, R703). -/
def LegalResponse (r : Response) : Prop :=
  (r.err = false ∧ r.cause = 0) ∨ (r.err = true ∧ (r.cause = 1 ∨ r.cause = 2))

/-- What holds of every state that a run from reset reaches. -/
structure Inv (s : State) : Prop where
  /-- A reset has come (R802). -/
  reset : s.beforeFirstReset = false
  /-- STATUS holds a value the block produces (R120). -/
  status : LegalStatus s.status
  /-- Every latency is at least 1 (R830). -/
  config : s.config.wellFormed = true
  /-- The transaction in progress will give a response the block produces (R111). -/
  response : ∀ t, s.txn = some t → LegalResponse t.response
  /-- Its response cycle is less than some class's latency away (R811). -/
  wait : ∀ t, s.txn = some t → ∃ c, t.wait < s.config.latency c
  /-- The block is FAULTED only from the response cycle of the faulting transaction on (DEDUCED from R814 and
  program P3 of spec/95_test_vectors.md, log entry 1). -/
  faulted : ∀ t, s.txn = some t → statusFaulted s.status = true → t.wait = 0 ∧ t.response.err = true
  /-- In that response cycle STATUS holds the response's cause (R710; the cycle is DEDUCED, log entry 1). -/
  cause : ∀ t, s.txn = some t → t.wait = 0 → t.response.err = true → s.status = faultStatus t.response.cause

end Sys2Proof.Machine
end

