-- ==== Sys2Proof/Certificates/Slice0/Obligations.lean ====
section
/-! DEFINITION. The statements for the provers. Each docstring names the rules of spec/ that it formalises. -/

open Sys2Proof Sys2Proof.Machine

/-! ### Encoding -/

/-- R310: each listed CMD selects its instruction, with the operands its form reads (R301), the others being ignored; and
the map is complete: no other CMD selects one. -/
def Obligations.OpcodeMap_selects_the_22_commands : Prop :=
  (∀ a b : Word128,
    decode ⟨0x00, a, b⟩ = .ok (.eq a b) ∧ decode ⟨0x01, a, b⟩ = .ok (.ne a b) ∧
    decode ⟨0x02, a, b⟩ = .ok (.lt a b) ∧ decode ⟨0x03, a, b⟩ = .ok (.le a b) ∧
    decode ⟨0x04, a, b⟩ = .ok (.gt a b) ∧ decode ⟨0x05, a, b⟩ = .ok (.ge a b) ∧
    decode ⟨0x06, a, b⟩ = .ok (.truth a) ∧ decode ⟨0x07, a, b⟩ = .ok (.lnot a) ∧
    decode ⟨0x08, a, b⟩ = .ok (.add a b) ∧ decode ⟨0x09, a, b⟩ = .ok (.sub a b) ∧
    decode ⟨0x0A, a, b⟩ = .ok (.neg a) ∧ decode ⟨0x0B, a, b⟩ = .ok (.abs a) ∧
    decode ⟨0x0C, a, b⟩ = .ok (.sext64 (a.extractLsb' 0 64)) ∧ decode ⟨0x10, a, b⟩ = .ok (.mul a b) ∧
    decode ⟨0x11, a, b⟩ = .ok (.div a b) ∧ decode ⟨0x12, a, b⟩ = .ok (.rem a b) ∧
    decode ⟨0x18, a, b⟩ = .ok (.sra a b) ∧ decode ⟨0x19, a, b⟩ = .ok (.sll a b) ∧
    decode ⟨0x1A, a, b⟩ = .ok (.and a b) ∧ decode ⟨0x1B, a, b⟩ = .ok (.or a b) ∧
    decode ⟨0x1C, a, b⟩ = .ok (.xor a b) ∧ decode ⟨0x1D, a, b⟩ = .ok (.not a)) ∧
  (∀ r : Request, (∃ i, decode r = .ok i) →
    r.cmd ∈ ([0x00, 0x01, 0x02, 0x03, 0x04, 0x05, 0x06, 0x07, 0x08, 0x09, 0x0A, 0x0B, 0x0C, 0x10, 0x11, 0x12,
      0x18, 0x19, 0x1A, 0x1B, 0x1C, 0x1D] : List Command))

/-- R311: requests with one CMD select the same row of the map, or are both rejected for the same reason, and a CMD is
rejected exactly when it is no CMD of R310. -/
def Obligations.Decoding_reads_the_command_alone : Prop :=
  (∀ r r' : Request, r.cmd = r'.cmd →
    (∀ i, decode r = .ok i → ∃ i', decode r' = .ok i' ∧ i'.mnemonic = i.mnemonic) ∧
    (∀ e, decode r = .error e → decode r' = .error e)) ∧
  (∀ r : Request, (∃ e, decode r = .error e) ↔
    ¬ (r.cmd.toNat ≤ 0x0C ∨ r.cmd.toNat ∈ [0x10, 0x11, 0x12, 0x18, 0x19, 0x1A, 0x1B, 0x1C, 0x1D]))

/-- Every instruction, with every operand, is read back from the request that carries it. -/
def Obligations.Decode_of_encode_is_the_instruction : Prop :=
  ∀ i : Instr, (encode i).wellFormed = true ∧ decode (encode i) = .ok i

/-- A request that selects an instruction is the one the encoder writes, but for operands that the form ignores (R301):
CMD, operand A of every form but W64, A.lo of W64, operand B of the forms RR and RS. -/
def Obligations.Encode_of_decode_is_the_request_read : Prop :=
  ∀ (r : Request) (i : Instr), decode r = .ok i →
    (encode i).cmd = r.cmd ∧ lo (encode i).a = lo r.a ∧
    (i.mnemonic ≠ "SEXT64" → (encode i).a = r.a) ∧
    (i.mnemonic ∉ ["TRUTH", "LNOT", "NEG", "ABS", "SEXT64", "NOT"] → (encode i).b = r.b)

/-- R340, the assembler's operand rule: the binary and shift commands take two operands, a unary one takes one and drives
B = 0, and any other number of operands is no request. -/
def Obligations.Assembler_drives_zero_for_an_omitted_operand : Prop :=
  ∀ a b : Word128,
    (∀ m ∈ ["EQ", "NE", "LT", "LE", "GT", "GE", "ADD", "SUB", "MUL", "DIV", "REM", "SRA", "SLL", "AND", "OR", "XOR"],
      assemble m a none = none ∧
      ∃ r i, assemble m a (some b) = some r ∧ r.a = a ∧ r.b = b ∧ decode r = .ok i ∧ i.mnemonic = m) ∧
    (∀ m ∈ ["TRUTH", "LNOT", "NEG", "ABS", "SEXT64", "NOT"],
      assemble m a (some b) = none ∧
      ∃ r i, assemble m a none = some r ∧ r.a = a ∧ r.b = 0 ∧ decode r = .ok i ∧ i.mnemonic = m)

/-- R341: each pseudo-instruction is exactly one request, the one of its expansion. The results of MOV, ISNEG and DIVMOD are
the table's notes; those of INC, DEC, ISZERO and LD64, and the classes, are the ones of the instruction it expands to (R401,
R412, R417, R460, R461, R570, R631, R830). -/
def Obligations.Pseudo_instructions_are_one_request_each : Prop :=
  ∀ (a b : Word128) (v : Word64) (s : State),
    (encode (Pseudo.expand (.mov a)) = ⟨0x1B, a, 0⟩ ∧
      exec (Pseudo.expand (.mov a)) s = .next (answered .logic a 0 false s)) ∧
    (encode (Pseudo.expand (.inc a)) = ⟨0x08, a, 1⟩ ∧
      exec (Pseudo.expand (.inc a)) s = .next (answered .add (a + 1) 0 false s)) ∧
    (encode (Pseudo.expand (.dec a)) = ⟨0x09, a, 1⟩ ∧
      exec (Pseudo.expand (.dec a)) s = .next (answered .add (a - 1) 0 false s)) ∧
    (encode (Pseudo.expand (.isneg a)) = ⟨0x02, a, 0⟩ ∧
      exec (Pseudo.expand (.isneg a)) s =
        .next (answered .cmp (if a.toInt < 0 then 1 else 0) 0 (decide (a.toInt < 0)) s)) ∧
    (encode (Pseudo.expand (.iszero a)) = ⟨0x07, a, 0⟩ ∧
      exec (Pseudo.expand (.iszero a)) s = .next (answered .cmp (if a = 0 then 1 else 0) 0 (decide (a = 0)) s)) ∧
    (encode (Pseudo.expand (.divmod a b)) = ⟨0x11, a, b⟩ ∧
      ∃ q r, divmod128 a b = .ok (q, r) ∧ exec (Pseudo.expand (.divmod a b)) s = .next (answered .div q r false s)) ∧
    encode (Pseudo.expand (.mod a b)) = ⟨0x12, a, b⟩ ∧
    encode (Pseudo.expand (.sar a b)) = ⟨0x18, a, b⟩ ∧
    encode (Pseudo.expand (.shl a b)) = ⟨0x19, a, b⟩ ∧
    (encode (Pseudo.expand (.ld64 v)) = ⟨0x0C, 0#64 ++ v, 0⟩ ∧
      exec (Pseudo.expand (.ld64 v)) s = .next (answered .misc (v.signExtend 128) 0 false s))

/-! ### One clock edge -/

/-- R700, R810: after the first reset, at an edge that accepts a request which selects `i`, the step is `exec i`, after the host's next signals and
the next free values have been brought forward. -/
def Obligations.Step_executes_the_decoded_instruction : Prop :=
  ∀ (s : State) (i : Instr), s.beforeFirstReset = false → refusedStatus s.status = none → (currentPins s).rst = false →
    (currentPins s).reqValid = true → reqReady s = true → decode (currentPins s).request = .ok i →
    step s = exec i { s with pins := s.pins.tail, freeIndex := s.freeIndex + 1 }

/-- The request that `withFetchWord` offers is accepted and executed by the very next step, from every state whose
parameters are anything at all. (What it changes besides is the model's choice: log entry 4.) -/
def Obligations.Fetch_word_is_executed_by_the_next_step : Prop :=
  ∀ (s : State) (w : Nat) (i : Instr), decodeTableWord 8 w = some i →
    ∃ u : State, step (s.withFetchWord 8 w) = exec i u ∧ u.pins = s.pins.tail ∧ u.config = s.config

/-- R150: the state that reset leaves, for every choice of the parameters and of what the host drives, as long as `rst` is
no longer driven. -/
def Obligations.Reset_state_is_idle_and_ready : Prop :=
  State.reset.status = 0x00 ∧ State.reset.txn = none ∧
  (∀ s : State, s.beforeFirstReset = State.reset.beforeFirstReset → s.status = State.reset.status → s.txn = State.reset.txn → (currentPins s).rst = false →
    (outputs s).stStatus = 0x00 ∧ (outputs s).faultIrq = false ∧ statusCause s.status = 0 ∧
    (outputs s).rspValid = false ∧ (outputs s).reqReady = true)

/-- R800: while `rst` is driven, no request is accepted and no response is presented (in the very cycle in which the host
drives it: DEDUCED, log entry 6; before the first reset every output is any value, R802, log entry 8), and the edge is a
reset, from any state whatever. -/
def Obligations.Driving_rst_blocks_both_ports : Prop :=
  ∀ s : State, (currentPins s).rst = true →
    (s.beforeFirstReset = false → (outputs s).reqReady = false ∧ (outputs s).rspValid = false) ∧ accepts s = false ∧
    step s = .next { s with
      beforeFirstReset := false, status := 0x00, txn := none, pins := s.pins.tail, freeIndex := s.freeIndex + 1 }

/-- R801: reset clears STATUS and abandons a transaction in progress, which never gets a response (as long as no new request
is offered, no response comes), and after the first reset no other edge makes a FAULTED block leave FAULTED (before it
STATUS is any value, R802). -/
def Obligations.Only_reset_leaves_FAULTED : Prop :=
  (∀ s : State, (currentPins s).rst = true →
    ∃ t, step s = .next t ∧ t.status = 0x00 ∧ (outputs t).faultIrq = false ∧ t.txn = none) ∧
  (∀ (s u : State) (n : Nat), (currentPins s).rst = true → (∀ j, 1 ≤ j → (pinsAt s j).reqValid = false) →
    edges (n + 1) s = .next u → (outputs u).rspValid = false) ∧
  (∀ s t : State, s.beforeFirstReset = false → step s = .next t → statusFaulted s.status = true → statusFaulted t.status = false →
    (currentPins s).rst = true)

/-- The reset state meets the invariant. -/
def Obligations.Reset_state_meets_the_invariant : Prop := Inv State.reset

/-- Every edge keeps the invariant, from every state that meets it: STATUS stays one of the values the block produces, no
cause but 1 and 2 is ever reported, the transaction in progress stays inside its latency, and STATUS and the response
of a fault agree. (That the block is FAULTED from the response cycle of the fault on, and not before, is DEDUCED, log
entry 1.) -/
def Obligations.Every_edge_keeps_the_invariant : Prop :=
  ∀ s t : State, Inv s → step s = .next t → Inv t

/-- No edge stops a block that meets the invariant. (R711 says that a FAULTED block has no step: that its clock edges, which
process no request, are next states is DEDUCED, log entry 5.) -/
def Obligations.A_legal_state_always_has_a_next_state : Prop :=
  ∀ s : State, Inv s → ∃ t, step s = .next t

/-- The two refusals, the model's choice that spec/93_implementation_defined.md I8 and I9 allow (log entry 9): after the first reset, at an edge without reset, exactly in the states whose STATUS
holds a value that is never produced. -/
def Obligations.Step_refuses_only_a_STATUS_never_produced : Prop :=
  ∀ s : State, (∃ r, step s = .refused r) ↔
    (s.beforeFirstReset = false ∧ (currentPins s).rst = false ∧ (32 ≤ s.status.toNat ∨ 8 ≤ s.status.toNat % 32))

/-- What one edge leaves unchanged: the parameters (R12 to R14). That the host's signals stand in State and are moved on, and
that the index of the free values rises by one, is the model's choice (log entries 4 and 3). -/
def Obligations.An_edge_keeps_the_parameters : Prop :=
  ∀ s t : State, step s = .next t →
    t.config = s.config ∧ t.pins = s.pins.tail ∧ t.freeIndex = s.freeIndex + 1

/-! ### Requests and responses -/

/-- R810: the block accepts a request when it samples `req_valid` = 1, `req_ready` = 1 and `rst` = 0, and only the values
sampled at an accepting edge count: two hosts that drive different requests which are not accepted give the same next
state. -/
def Obligations.A_request_not_accepted_has_no_effect : Prop :=
  (∀ s : State, accepts s = true ↔
    (currentPins s).reqValid = true ∧ (outputs s).reqReady = true ∧ (currentPins s).rst = false) ∧
  (∀ (s : State) (p q : HostPins) (ps : List HostPins), p.rst = q.rst →
    accepts { s with pins := p :: ps } = false → accepts { s with pins := q :: ps } = false →
    step { s with pins := p :: ps } = step { s with pins := q :: ps })

/-- R206: at most one transaction is in progress: after the first reset the block accepts nothing before its response cycle, and the transaction
only comes one edge nearer to its response. -/
def Obligations.A_busy_block_accepts_nothing : Prop :=
  ∀ (s : State) (w : Nat) (r : Response), s.beforeFirstReset = false → s.txn = some ⟨w + 1, r⟩ →
    accepts s = false ∧
    ((currentPins s).rst = false → refusedStatus s.status = none →
      ∃ t, step s = .next t ∧ t.txn = some ⟨w, r⟩)

/-- R811: a request accepted at an edge e by a block that meets the invariant is answered in cycle e + L − 1, L being the
latency of its instruction's class (MISC for a reserved command), and in no cycle before it; in the cycles before it
`req_ready` is 0, and in the response cycle it is 1 unless the transaction faulted. Edges after e are only asked not to
reset the block: whatever requests the host drives meanwhile are ignored. -/
def Obligations.The_response_comes_in_cycle_LAT_minus_one : Prop :=
  ∀ (s : State) (c : OpClass) (L : Nat), Inv s → accepts s = true →
    (∀ i, decode (currentPins s).request = .ok i → c = i.opClass) →
    ((∃ e, decode (currentPins s).request = .error e) → c = .misc) →
    L = s.config.latency c → (∀ j, 1 ≤ j → j ≤ L → (pinsAt s j).rst = false) →
    ∃ r, (∀ i, decode (currentPins s).request = .ok i →
        ∃ t0, exec i (advance s) = .next t0 ∧ t0.txn = some ⟨L - 1, r⟩) ∧
      ((∃ e, decode (currentPins s).request = .error e) → r.err = true ∧ r.cause = 2) ∧
      ∀ k, k < L → ∃ t, edges (k + 1) s = .next t ∧ t.txn = some ⟨L - 1 - k, r⟩ ∧
        (outputs t).rspValid = decide (k = L - 1) ∧
        (outputs t).reqReady = (decide (k = L - 1) && !r.err) ∧
        (k = L - 1 → (outputs t).rspErr = r.err ∧ (outputs t).rspCause = r.cause ∧
          (outputs t).rspYHi ++ (outputs t).rspYLo = r.y ∧ (outputs t).rspY2Hi ++ (outputs t).rspY2Lo = r.y2 ∧
          (outputs t).rspF = r.f)

/-- R111: after the first reset a response is presented for one cycle: at the next edge it is gone, or, if that edge accepts a request, it has
given way to that request's transaction. -/
def Obligations.A_response_lasts_one_cycle : Prop :=
  ∀ s t : State, s.beforeFirstReset = false → (outputs s).rspValid = true → step s = .next t →
    (accepts s = false → t.txn = none ∧ (outputs t).rspValid = false) ∧
    (accepts s = true → ∀ i, decode (currentPins s).request = .ok i →
      ∃ u, exec i (advance s) = .next u ∧ t.txn = u.txn)

/-- R207: what a request is answered depends on the request alone: not on the state, the parameters (so not on MUL_IMPL,
R505) or an earlier transaction. (Y, Y2 and F of a fault's response are any value.) -/
def Obligations.The_answer_depends_on_the_request_alone : Prop :=
  ∀ (i : Instr) (s u s' u' : State), exec i s = .next s' → exec i u = .next u' →
    ∃ w r w' r', s'.txn = some ⟨w, r⟩ ∧ u'.txn = some ⟨w', r'⟩ ∧
      r.err = r'.err ∧ r.cause = r'.cause ∧ (r.err = false → r = r')

/-- What every instruction leaves unchanged: the parameters, the host's signals and the index of the free values; and STATUS,
but for ABS of MIN in the response cycle of its fault. (That STATUS is written in that cycle, which comes at once when the
latency is 1, is DEDUCED, log entry 1; that a latency of 0 behaves as 1 is the model's choice, log entry 11.) -/
def Obligations.Instructions_leave_everything_else_unchanged : Prop :=
  ∀ (i : Instr) (s t : State), exec i s = .next t →
    t.config = s.config ∧ t.pins = s.pins ∧ t.freeIndex = s.freeIndex ∧ t.beforeFirstReset = s.beforeFirstReset ∧
    (t.status = s.status ∨ (i = .abs MIN ∧ s.config.latency .add ≤ 1 ∧ t.status = 0x03))

/-- R113: only the comparisons answer a non-zero F, and only DIV and REM a non-zero Y2. -/
def Obligations.Only_comparisons_set_F_and_only_division_sets_Y2 : Prop :=
  ∀ (i : Instr) (s t : State) (w : Nat) (r : Response), exec i s = .next t → t.txn = some ⟨w, r⟩ → r.err = false →
    (r.f = true → i.mnemonic ∈ ["EQ", "NE", "LT", "LE", "GT", "GE", "TRUTH", "LNOT"]) ∧
    (r.y2 ≠ 0 → i.mnemonic ∈ ["DIV", "REM"])

/-- R830, R831: the latency of a request is that of its instruction's class, whatever its operands and its result, and that
of MISC for a reserved command. -/
def Obligations.The_latency_is_that_of_the_class : Prop :=
  (∀ s : State, ∃ t r, execReserved s = .next t ∧ t.txn = some ⟨s.config.latencies.misc - 1, r⟩) ∧
  (∀ (i : Instr) (s : State), ∃ t r, exec i s = .next t ∧
    t.txn = some ⟨(if i.mnemonic ∈ ["EQ", "NE", "LT", "LE", "GT", "GE", "TRUTH", "LNOT"] then s.config.latencies.cmp
      else if i.mnemonic ∈ ["ADD", "SUB", "NEG", "ABS"] then s.config.latencies.add
      else if i.mnemonic = "SEXT64" then s.config.latencies.misc
      else if i.mnemonic = "MUL" then s.config.latencies.mul
      else if i.mnemonic ∈ ["DIV", "REM"] then s.config.latencies.div
      else if i.mnemonic ∈ ["SRA", "SLL"] then s.config.latencies.shift
      else s.config.latencies.logic) - 1, r⟩)

/-! ### Faults -/

/-- R320, R702: an accepted request with a reserved command raises ILLEGAL_CMD, cause 2, whatever its operands are. Its class
is MISC (R830), and that STATUS is written in the response cycle is DEDUCED from R814 (log entry 1). -/
def Obligations.A_reserved_command_faults_with_cause_2 : Prop :=
  ∀ s : State, s.beforeFirstReset = false → refusedStatus s.status = none → accepts s = true →
    (0x20 ≤ (currentPins s).reqCmd.toNat ∨
      (currentPins s).reqCmd.toNat ∈ [0x0D, 0x0E, 0x0F, 0x13, 0x14, 0x15, 0x16, 0x17, 0x1E, 0x1F]) →
    ∃ t, step s = .next t ∧
      FaultAnswered .misc 2 { s with pins := s.pins.tail, freeIndex := s.freeIndex + 1 } t

/-- R705: a request with a legal command can raise only the fault of its own instruction: ABS of MIN, with cause 1. -/
def Obligations.Only_ABS_of_MIN_faults : Prop :=
  ∀ (i : Instr) (s t : State) (w : Nat) (r : Response), exec i s = .next t → t.txn = some ⟨w, r⟩ →
    (r.err = true ↔ i = .abs 0x80000000000000000000000000000000) ∧ (r.err = true → r.cause = 1) ∧
    (r.err = false → r.cause = 0)

/-- R710, R814 (that STATUS is written in the response cycle is DEDUCED, log entry 1): an edge that brings the response cycle of a faulting transaction sets STATUS.FAULTED to 1 and STATUS.CAUSE to the
response's cause, presents err = 1 with that cause (unless `rst` is driven), and `req_ready` is 0. -/
def Obligations.Fault_entry_writes_STATUS : Prop :=
  ∀ (s t : State) (r : Response), step s = .next t → t.txn = some ⟨0, r⟩ → r.err = true →
    statusFaulted t.status = true ∧ statusCause t.status = r.cause ∧ statusReserved t.status = 0 ∧
    (outputs t).reqReady = false ∧ (outputs t).faultIrq = true ∧
    ((currentPins t).rst = false → (outputs t).rspValid = true ∧ (outputs t).rspErr = true ∧ (outputs t).rspCause = r.cause)

/-- R711, R713: a FAULTED block holds `req_ready` at 0, accepts nothing and keeps STATUS, CAUSE included, over any number of
edges without reset, whatever the host drives; after the first of them no response is presented. (That these edges are
next states is DEDUCED, log entry 5.) -/
def Obligations.A_FAULTED_block_is_stuck_until_reset : Prop :=
  ∀ (s : State) (n : Nat), Inv s → statusFaulted s.status = true → (∀ j, j < n → (pinsAt s j).rst = false) →
    ∃ t, edges n s = .next t ∧ t.status = s.status ∧ (outputs t).reqReady = false ∧ accepts t = false ∧
      (0 < n → t.txn = none ∧ (outputs t).rspValid = false)

/-- R120: after the first reset STATUS changes only at a fault and at reset. That it changes in the response cycle of the
fault is DEDUCED (log entry 1). -/
def Obligations.STATUS_changes_only_at_a_fault_and_at_reset : Prop :=
  ∀ s t : State, s.beforeFirstReset = false → step s = .next t → t.status ≠ s.status →
    ((currentPins s).rst = true ∧ t.status = 0x00) ∨
    (∃ r, t.txn = some ⟨0, r⟩ ∧ r.err = true ∧ t.status = faultStatus r.cause)

/-- R730: `fault_irq` equals STATUS.FAULTED, bit 0 of `st_status`, in every cycle after the first reset; it is set
only by fault entry, and cleared only by reset. That it rises in the response cycle of the fault is DEDUCED (log entry 1,
program P3 of spec/95_test_vectors.md). -/
def Obligations.The_fault_line_follows_FAULTED : Prop :=
  (∀ s : State, s.beforeFirstReset = false → (outputs s).faultIrq = (outputs s).stStatus.getLsbD 0 ∧ (outputs s).stStatus = s.status) ∧
  (∀ s t : State, s.beforeFirstReset = false → step s = .next t →
    ((outputs s).faultIrq = false → (outputs t).faultIrq = true →
      ∃ r, t.txn = some ⟨0, r⟩ ∧ r.err = true ∧ statusCause (outputs t).stStatus = r.cause) ∧
    ((outputs s).faultIrq = true → (outputs t).faultIrq = false → (currentPins s).rst = true))

/-- R703: the internal left-shift helper is refused exactly for amounts outside [1, 64), and no request raises its cause. -/
def Obligations.No_request_raises_SHIFT_HELPER_RANGE : Prop :=
  (∀ (v : Word128) (k : Nat), shiftHelper v k = .error .shiftHelperRange ↔ ¬ (1 ≤ k ∧ k < 64)) ∧
  (∀ x d : Word128, ∃ q r, divmod128 x d = .ok (q, r)) ∧
  (∀ (i : Instr) (s t : State) (w : Nat) (r : Response), exec i s = .next t → t.txn = some ⟨w, r⟩ → r.cause ≠ 3)

/-! ### Representation and comparison -/

/-- R400, R401: SEXT64 answers the sign extension of A.lo, which denotes the same integer; A.hi and B are ignored. -/
def Obligations.SEXT64_sign_extends_the_low_word : Prop :=
  ∀ (a b : Word128) (v : Word64) (s : State),
    decode ⟨0x0C, a, b⟩ = .ok (.sext64 (a.extractLsb' 0 64)) ∧
    exec (.sext64 v) s = .next (answered .misc (v.signExtend 128) 0 false s) ∧
    v.signExtend 128 = (if v.getLsbD 63 then 0xFFFFFFFFFFFFFFFF#64 else 0#64) ++ v ∧ (v.signExtend 128).toInt = v.toInt

/-- R402 to R404, R410 to R417: each comparison answers its condition, by words, as F and as the value 1 or 0 in Y. -/
def Obligations.Comparisons_answer_the_condition_on_the_words : Prop :=
  ∀ (a b : Word128) (s : State),
    let less : Word128 → Word128 → Bool := fun x y =>
      if hi x ≠ hi y then decide ((hi x).toInt < (hi y).toInt) else decide ((lo x).toNat < (lo y).toNat)
    let equal : Word128 → Word128 → Bool := fun x y => decide (hi x = hi y ∧ lo x = lo y)
    let boolean : Bool → State := fun c => answered .cmp (if c then 1 else 0) 0 c s
    (∀ x y, equal x y = true ↔ x = y) ∧
    (decode ⟨0x00, a, b⟩ = .ok (.eq a b) ∧ exec (.eq a b) s = .next (boolean (equal a b))) ∧
    (decode ⟨0x01, a, b⟩ = .ok (.ne a b) ∧ exec (.ne a b) s = .next (boolean (!equal a b))) ∧
    (decode ⟨0x02, a, b⟩ = .ok (.lt a b) ∧ exec (.lt a b) s = .next (boolean (less a b))) ∧
    (decode ⟨0x03, a, b⟩ = .ok (.le a b) ∧ exec (.le a b) s = .next (boolean (less a b || equal a b))) ∧
    (decode ⟨0x04, a, b⟩ = .ok (.gt a b) ∧ exec (.gt a b) s = .next (boolean (less b a))) ∧
    (decode ⟨0x05, a, b⟩ = .ok (.ge a b) ∧ exec (.ge a b) s = .next (boolean (!less a b))) ∧
    (decode ⟨0x06, a, b⟩ = .ok (.truth a) ∧ exec (.truth a) s = .next (boolean (!equal a 0))) ∧
    (decode ⟨0x07, a, b⟩ = .ok (.lnot a) ∧ exec (.lnot a) s = .next (boolean (equal a 0)))

/-- R405: the comparisons are those of the integers that the patterns denote (R101). -/
def Obligations.Comparisons_order_the_integers : Prop :=
  ∀ (a b : Word128) (s : State),
    let boolean : Bool → State := fun c => answered .cmp (if c then 1 else 0) 0 c s
    exec (.eq a b) s = .next (boolean (decide (a.toInt = b.toInt))) ∧
    exec (.ne a b) s = .next (boolean (decide (a.toInt ≠ b.toInt))) ∧
    exec (.lt a b) s = .next (boolean (decide (a.toInt < b.toInt))) ∧
    exec (.le a b) s = .next (boolean (decide (a.toInt ≤ b.toInt))) ∧
    exec (.gt a b) s = .next (boolean (decide (b.toInt < a.toInt))) ∧
    exec (.ge a b) s = .next (boolean (decide (b.toInt ≤ a.toInt))) ∧
    exec (.truth a) s = .next (boolean (decide (a.toInt ≠ 0))) ∧
    exec (.lnot a) s = .next (boolean (decide (a.toInt = 0)))

/-- R101, R102: the two words give the integer that a value denotes, which lies in the closed range; every integer of the
range is denoted by exactly one pattern; and a value is negative exactly when its high word is, that is when bit 127 is 1. -/
def Obligations.A_value_denotes_the_integer_of_its_words : Prop :=
  (∀ v : Word128, v.toInt = (hi v).toInt * 2 ^ 64 + ((lo v).toNat : Int) ∧
    -(2 ^ 127) ≤ v.toInt ∧ v.toInt ≤ 2 ^ 127 - 1 ∧
    (v.toInt < 0 ↔ (hi v).toInt < 0) ∧ (v.toInt < 0 ↔ v.getLsbD 127 = true) ∧ (isNegative v = true ↔ v.toInt < 0)) ∧
  (∀ n : Int, -(2 ^ 127) ≤ n → n ≤ 2 ^ 127 - 1 → ∃! v : Word128, v.toInt = n)

/-! ### Additive core -/

/-- R460: ADD is addition modulo 2^128. -/
def Obligations.ADD_adds_modulo_two_to_128 : Prop :=
  ∀ (a b : Word128) (s : State),
    decode ⟨0x08, a, b⟩ = .ok (.add a b) ∧ exec (.add a b) s = .next (answered .add (a + b) 0 false s)

/-- R461: SUB is subtraction modulo 2^128, and adding the subtrahend again gives the minuend. -/
def Obligations.SUB_subtracts_modulo_two_to_128 : Prop :=
  ∀ (a b : Word128) (s : State),
    decode ⟨0x09, a, b⟩ = .ok (.sub a b) ∧ exec (.sub a b) s = .next (answered .add (a - b) 0 false s) ∧
    exec (.add (a - b) b) s = .next (answered .add a 0 false s)

/-- R462: NEG is two's-complement negation modulo 2^128, MIN included. -/
def Obligations.NEG_negates_modulo_two_to_128 : Prop :=
  ∀ (a b : Word128) (s : State),
    decode ⟨0x0A, a, b⟩ = .ok (.neg a) ∧ exec (.neg a) s = .next (answered .add (-a) 0 false s) ∧
    exec (.neg 0x80000000000000000000000000000000) s =
      .next (answered .add 0x80000000000000000000000000000000 0 false s)

/-- R463: ABS of every value but MIN is its absolute value, and ABS of MIN faults with cause 1 (R710). That STATUS is
written in the response cycle is DEDUCED from R814 (log entry 1). -/
def Obligations.ABS_is_the_magnitude_or_a_fault : Prop :=
  ∀ (a b : Word128) (s : State),
    decode ⟨0x0B, a, b⟩ = .ok (.abs a) ∧
    (a.toInt ≠ -(2 ^ 127) → ∃ y : Word128, y.toInt = |a.toInt| ∧ exec (.abs a) s = .next (answered .add y 0 false s)) ∧
    (a.toInt = -(2 ^ 127) → ∃ t, exec (.abs a) s = .next t ∧ FaultAnswered .add 1 s t)

/-- R452, R454: the carry and the borrow that are detected by comparison are those of the low words as natural numbers. -/
def Obligations.Carry_and_borrow_are_those_of_the_low_words : Prop :=
  ∀ a b : Word64,
    (carry64 a b = true ↔ 2 ^ 64 ≤ a.toNat + b.toNat) ∧ (borrow64 a b = true ↔ a.toNat < b.toNat)

/-! ### Multiplicative core -/

/-- R510: MUL is multiplication modulo 2^128, by every datapath. -/
def Obligations.MUL_multiplies_modulo_two_to_128 : Prop :=
  ∀ (a b : Word128) (s : State),
    decode ⟨0x10, a, b⟩ = .ok (.mul a b) ∧ exec (.mul a b) s = .next (answered .mul (a * b) 0 false s)

/-- R505: the datapaths give bit-identical products: the low 128 bits of the product of the unsigned readings (R501). The booth datapath's radix is PRESUMED, log entry 7. -/
def Obligations.The_multiplier_datapaths_agree : Prop :=
  ∀ (m : MulImpl) (x y : Word128), (umul128 m x y).toNat = x.toNat * y.toNat % 2 ^ 128

/-! ### Division and modulo core -/

/-- R552: division by zero gives quotient 0 and remainder the dividend, and no fault. -/
def Obligations.Division_by_zero_gives_zero_and_the_dividend : Prop :=
  ∀ (a : Word128) (s : State),
    exec (.div a 0) s = .next (answered .div 0 a false s) ∧ exec (.rem a 0) s = .next (answered .div a 0 false s)

/-- R553: the divisor MIN. -/
def Obligations.Division_by_MIN : Prop :=
  ∀ (a : Word128) (s : State),
    let q : Word128 := if a = MIN then 1 else 0
    let r : Word128 := if a = MIN then 0 else a
    exec (.div a MIN) s = .next (answered .div q r false s) ∧ exec (.rem a MIN) s = .next (answered .div r q false s)

/-- R561: MIN divided by −1 gives MIN and remainder 0. -/
def Obligations.MIN_divided_by_minus_one : Prop :=
  ∀ s : State,
    exec (.div 0x80000000000000000000000000000000 (-1)) s =
      .next (answered .div 0x80000000000000000000000000000000 0 false s) ∧
    exec (.rem 0x80000000000000000000000000000000 (-1)) s =
      .next (answered .div 0 0x80000000000000000000000000000000 false s)

/-- R560, R561, R570, R571: DIV and REM complete for all operands; the quotient is that of the integers rounded toward zero
and the remainder has the dividend's sign, both modulo 2^128 (it wraps only for MIN divided by −1). Lean's `tdiv` by 0 is 0
and its `tmod` by 0 the dividend, as R552 has it. -/
def Obligations.DIV_and_REM_truncate_toward_zero : Prop :=
  ∀ (a b : Word128) (s : State),
    let q := BitVec.ofInt 128 (a.toInt.tdiv b.toInt)
    let r := BitVec.ofInt 128 (a.toInt.tmod b.toInt)
    (decode ⟨0x11, a, b⟩ = .ok (.div a b) ∧ exec (.div a b) s = .next (answered .div q r false s)) ∧
    (decode ⟨0x12, a, b⟩ = .ok (.rem a b) ∧ exec (.rem a b) s = .next (answered .div r q false s))

/-- R560: quotient times divisor plus remainder is the dividend, in the block's own arithmetic and with every multiplier; the
remainder is 0 or has the dividend's sign, and it is smaller than the divisor. -/
def Obligations.Quotient_times_divisor_plus_remainder : Prop :=
  ∀ (m : MulImpl) (x d : Word128), d ≠ 0 →
    ∃ q r, divmod128 x d = .ok (q, r) ∧ add128 (mul128 m q d) r = x ∧
      (r = 0 ∨ (r.toInt < 0 ↔ x.toInt < 0)) ∧ |r.toInt| < |d.toInt|

/-- R556, R558: the long-division engine gives the quotient and the remainder of the magnitudes. -/
def Obligations.The_engine_divides_magnitudes : Prop :=
  ∀ m v : Word128, m.toNat < 2 ^ 127 → 1 ≤ v.toNat → v.toNat < 2 ^ 127 →
    ∃ q r, umagDiv m v = .ok (q, r) ∧ q.toNat = m.toNat / v.toNat ∧ r.toNat = m.toNat % v.toNat

/-- R557: HIGHBIT is the least n with m < 2^n. -/
def Obligations.HIGHBIT_is_the_least_power_above : Prop :=
  ∀ m : Word128, m.toNat < 2 ^ highBit m ∧ (∀ n, m.toNat < 2 ^ n → highBit m ≤ n) ∧
    (m.toNat < 2 ^ 127 → highBit m ≤ 127)

/-- R559: the loop with a fixed count, 127 or 128 iterations, gives what the loop from HIGHBIT gives, and comparing by the
borrow of the subtraction gives what the comparison gives. -/
def Obligations.Equivalent_forms_of_the_engine : Prop :=
  (∀ m v : Word128, m.toNat < 2 ^ 127 → 1 ≤ v.toNat →
    divideLoop m v 127 0 0 = umagDiv m v ∧ divideLoop m v 128 0 0 = umagDiv m v) ∧
  (∀ r v : Word128, v.ule r = !(r.ult (sub128 r v)))

/-! ### Shift and bitwise core -/

/-- R601, R602, R620: SRA shifts right and copies the sign for amounts below 128, and answers 0 for every greater amount, for
negative values too. -/
def Obligations.SRA_shifts_right_or_answers_zero : Prop :=
  ∀ (a b : Word128) (s : State),
    decode ⟨0x18, a, b⟩ = .ok (.sra a b) ∧
    ∃ y : Word128, exec (.sra a b) s = .next (answered .shift y 0 false s) ∧
      (b.toNat < 128 → y.toInt = a.toInt.fdiv (2 ^ b.toNat)) ∧ (128 ≤ b.toNat → y = 0)

/-- R603, R604, R621: SLL answers 0 for a negative value, whatever the amount, and for every amount from 128 on; else the
product with 2^k modulo 2^127. -/
def Obligations.SLL_shifts_left_below_bit_127 : Prop :=
  ∀ (a b : Word128) (s : State),
    decode ⟨0x19, a, b⟩ = .ok (.sll a b) ∧
    ∃ y : Word128, exec (.sll a b) s = .next (answered .shift y 0 false s) ∧
      (a.toInt < 0 → y = 0) ∧ (128 ≤ b.toNat → y = 0) ∧
      (0 ≤ a.toInt → b.toNat < 128 → y.toNat = a.toNat * 2 ^ b.toNat % 2 ^ 127)

/-- R607, R630 to R633: the bitwise operations act bit by bit. -/
def Obligations.Bitwise_operations_act_on_every_bit : Prop :=
  ∀ (a b : Word128) (s : State),
    (decode ⟨0x1A, a, b⟩ = .ok (.and a b) ∧ exec (.and a b) s = .next (answered .logic (a &&& b) 0 false s)) ∧
    (decode ⟨0x1B, a, b⟩ = .ok (.or a b) ∧ exec (.or a b) s = .next (answered .logic (a ||| b) 0 false s)) ∧
    (decode ⟨0x1C, a, b⟩ = .ok (.xor a b) ∧ exec (.xor a b) s = .next (answered .logic (a ^^^ b) 0 false s)) ∧
    (decode ⟨0x1D, a, b⟩ = .ok (.not a) ∧ exec (.not a) s = .next (answered .logic (~~~a) 0 false s))

/-! ### Before the first reset -/

/-- R802: before the first reset an edge without reset is never refused, whatever STATUS holds, and leaves the block as it was
in this respect, its STATUS a free value; the outputs are those of no state the block could have: each is a free value of
its own (log entries 3 and 8), whatever STATUS, the transaction and the parameters are. Only a reset edge ends this, from
every state, and nothing brings it back. -/
def Obligations.Before_the_first_reset_every_output_is_free : Prop :=
  (∀ s : State, s.beforeFirstReset = true →
    (outputs s).reqReady = Config.powerUpReqReady s.freeIndex ∧ (outputs s).rspValid = Config.powerUpRspValid s.freeIndex ∧
    (outputs s).stStatus = Config.powerUpStStatus s.freeIndex ∧ (outputs s).faultIrq = Config.powerUpFaultIrq s.freeIndex ∧
    (outputs s).rspYHi ++ (outputs s).rspYLo = Config.idleY s.freeIndex ∧
    (outputs s).rspY2Hi ++ (outputs s).rspY2Lo = Config.idleY2 s.freeIndex ∧
    (outputs s).rspF = Config.idleF s.freeIndex ∧ (outputs s).rspErr = Config.idleErr s.freeIndex ∧
    (outputs s).rspCause = Config.idleCause s.freeIndex) ∧
  (∀ s : State, s.beforeFirstReset = true → (currentPins s).rst = false →
    ∃ t, step s = .next t ∧ t.beforeFirstReset = true ∧ ∃ n, t.status = Config.powerUpStatus n) ∧
  (∀ s t : State, step s = .next t →
    (t.beforeFirstReset = true ↔ s.beforeFirstReset = true ∧ (currentPins s).rst = false))
end

