-- ==== Sys2Proof/Laws/Divide.lean ====
section
/-! SUPPORT. The division engine is total: its helper is only called with amount 1 (spec/43_divide.md R558), so every function
built on it answers a quotient and a remainder. -/

namespace Sys2Proof.Machine

@[simp] theorem shiftHelper_one (v : Word128) : shiftHelper v 1 = .ok (v <<< 1) := rfl

/-- One iteration, with the helper's shifts done. -/
theorem divideStep_eq (bit : Bool) (v q r : Word128) :
    divideStep bit v q r =
      .ok (if v.ule ((r <<< 1) ||| zextBool128 bit) then
          (add128 (q <<< 1) 1, sub128 ((r <<< 1) ||| zextBool128 bit) v)
        else (q <<< 1, (r <<< 1) ||| zextBool128 bit)) := by
  simp only [divideStep, shiftHelper_one]
  split <;> rfl

theorem divideLoop_zero (m v q r : Word128) : divideLoop m v 0 q r = .ok (q, r) := rfl

theorem divideLoop_succ (m v : Word128) (n : Nat) (q r : Word128) :
    divideLoop m v (n + 1) q r =
      if v.ule ((r <<< 1) ||| zextBool128 (m.getLsbD n)) then
        divideLoop m v n (add128 (q <<< 1) 1) (sub128 ((r <<< 1) ||| zextBool128 (m.getLsbD n)) v)
      else divideLoop m v n (q <<< 1) ((r <<< 1) ||| zextBool128 (m.getLsbD n)) := by
  rw [divideLoop, divideStep_eq]
  by_cases h : v.ule ((r <<< 1) ||| zextBool128 (m.getLsbD n)) = true
  · simp only [if_pos h]
  · simp only [if_neg h]

theorem divideLoop_total (m v : Word128) (n : Nat) : ∀ q r, ∃ p, divideLoop m v n q r = .ok p := by
  induction n with
  | zero => exact fun q r => ⟨_, rfl⟩
  | succ n ih => intro q r; rw [divideLoop_succ]; split <;> exact ih _ _

theorem divGeneral_total (x d : Word128) : ∃ p, divGeneral x d = .ok p := by
  obtain ⟨p, hp⟩ := divideLoop_total (mag x) (mag d) (highBit (mag x)) 0 0
  exact ⟨_, by rw [divGeneral, umagDiv, hp]⟩

theorem divMin_total (d : Word128) : ∃ p, divMin d = .ok p := by
  obtain ⟨p, hp⟩ := divGeneral_total (add128 MIN 1) d
  unfold divMin; rw [hp]
  dsimp only; split <;> exact ⟨_, rfl⟩

/-- DIVMOD128 gives a result for every pair of patterns (R550). -/
theorem divmod128_total (x d : Word128) : ∃ p, divmod128 x d = .ok p := by
  unfold divmod128
  split
  · exact ⟨_, rfl⟩
  split
  · exact ⟨_, rfl⟩
  split
  · exact divMin_total d
  · exact divGeneral_total x d

end Sys2Proof.Machine
end

