-- ==== Sys2Proof/Laws/State.lean ====
section
/-! SUPPORT. One lemma for each field of State and each update of it, so that no proof unfolds a record update. -/

namespace Sys2Proof.Machine

variable (c : BitVec 4) (s : State)

@[simp] theorem takeFault_beforeFirstReset : (takeFault c s).beforeFirstReset = s.beforeFirstReset := rfl
@[simp] theorem takeFault_status : (takeFault c s).status = faultStatus c := rfl
@[simp] theorem takeFault_txn : (takeFault c s).txn = s.txn := rfl
@[simp] theorem takeFault_pins : (takeFault c s).pins = s.pins := rfl
@[simp] theorem takeFault_config : (takeFault c s).config = s.config := rfl
@[simp] theorem takeFault_freeIndex : (takeFault c s).freeIndex = s.freeIndex := rfl

@[simp] theorem applyReset_beforeFirstReset : (applyReset s).beforeFirstReset = false := rfl
@[simp] theorem applyReset_status : (applyReset s).status = 0x00 := rfl
@[simp] theorem applyReset_txn : (applyReset s).txn = none := rfl
@[simp] theorem applyReset_pins : (applyReset s).pins = s.pins := rfl
@[simp] theorem applyReset_config : (applyReset s).config = s.config := rfl
@[simp] theorem applyReset_freeIndex : (applyReset s).freeIndex = s.freeIndex := rfl

@[simp] theorem powerUpEdge_beforeFirstReset : (powerUpEdge s).beforeFirstReset = s.beforeFirstReset := rfl
@[simp] theorem powerUpEdge_status : (powerUpEdge s).status = Config.powerUpStatus s.freeIndex := rfl
@[simp] theorem powerUpEdge_txn : (powerUpEdge s).txn = none := rfl
@[simp] theorem powerUpEdge_pins : (powerUpEdge s).pins = s.pins := rfl
@[simp] theorem powerUpEdge_config : (powerUpEdge s).config = s.config := rfl
@[simp] theorem powerUpEdge_freeIndex : (powerUpEdge s).freeIndex = s.freeIndex := rfl

@[simp] theorem advance_beforeFirstReset : (advance s).beforeFirstReset = s.beforeFirstReset := rfl
@[simp] theorem advance_status : (advance s).status = s.status := rfl
@[simp] theorem advance_txn : (advance s).txn = s.txn := rfl
@[simp] theorem advance_pins : (advance s).pins = s.pins.tail := rfl
@[simp] theorem advance_config : (advance s).config = s.config := rfl
@[simp] theorem advance_freeIndex : (advance s).freeIndex = s.freeIndex + 1 := rfl

end Sys2Proof.Machine
end

