-- ==== Sys2Proof/Laws/Ops.lean ====
section
/-! SUPPORT. What each shared operation can do, said once. -/

namespace Sys2Proof.Machine

/-! ### STATUS -/

@[simp] theorem statusFaulted_faultStatus (c : BitVec 4) : statusFaulted (faultStatus c) = true := by
  revert c; decide

@[simp] theorem statusCause_faultStatus (c : BitVec 4) : statusCause (faultStatus c) = c := by
  revert c; decide

@[simp] theorem statusReserved_faultStatus (c : BitVec 4) : statusReserved (faultStatus c) = 0 := by
  revert c; decide

/-- The STATUS values that `step` does not refuse. -/
theorem refusedStatus_eq_none_iff (st : BitVec 8) :
    refusedStatus st = none ↔ statusReserved st = 0 ∧ (statusCause st).toNat < 4 := by
  revert st; decide

/-! ### The progress of a transaction -/

variable (t : Transaction) (s : State)

@[simp] theorem arrive_txn : (arrive t s).txn = some t := by unfold arrive; split <;> rfl
@[simp] theorem arrive_beforeFirstReset : (arrive t s).beforeFirstReset = s.beforeFirstReset := by
  unfold arrive; split <;> rfl
@[simp] theorem arrive_pins : (arrive t s).pins = s.pins := by unfold arrive; split <;> rfl
@[simp] theorem arrive_config : (arrive t s).config = s.config := by unfold arrive; split <;> rfl
@[simp] theorem arrive_freeIndex : (arrive t s).freeIndex = s.freeIndex := by unfold arrive; split <;> rfl

/-- STATUS after a transaction has come to `t`: written exactly in the response cycle of a fault. -/
theorem arrive_status :
    (arrive t s).status = if t.wait = 0 ∧ t.response.err = true then faultStatus t.response.cause else s.status := by
  unfold arrive
  by_cases h : t.wait = 0 <;> cases he : t.response.err <;> simp [h]

@[simp] theorem launch_txn (c : OpClass) (r : Response) :
    (launch c r s).txn = some { wait := s.config.latency c - 1, response := r } := arrive_txn _ _
@[simp] theorem launch_beforeFirstReset (c : OpClass) (r : Response) :
    (launch c r s).beforeFirstReset = s.beforeFirstReset := arrive_beforeFirstReset _ _
@[simp] theorem launch_pins (c : OpClass) (r : Response) : (launch c r s).pins = s.pins := arrive_pins _ _
@[simp] theorem launch_config (c : OpClass) (r : Response) : (launch c r s).config = s.config := arrive_config _ _
@[simp] theorem launch_freeIndex (c : OpClass) (r : Response) : (launch c r s).freeIndex = s.freeIndex :=
  arrive_freeIndex _ _

/-! ### The ports after the first reset -/

theorem reqReady_of_reset (h : s.beforeFirstReset = false) : reqReady s = (!(currentPins s).rst && blockReady s) := by
  simp [reqReady, h]

theorem rspValid_of_reset (h : s.beforeFirstReset = false) : rspValid s = (presented s).isSome := by simp [rspValid, h]

theorem stStatus_of_reset (h : s.beforeFirstReset = false) : stStatus s = s.status := by simp [stStatus, h]

theorem faultIrq_of_reset (h : s.beforeFirstReset = false) : faultIrq s = statusFaulted s.status := by simp [faultIrq, h]

/-- No request is accepted at an edge with `rst`. -/
theorem rst_of_accepts (h : accepts s = true) : (currentPins s).rst = false := by
  simp only [accepts, Bool.and_eq_true, Bool.not_eq_true'] at h; exact h.1.1

/-- Only a block that is ready accepts. -/
theorem blockReady_of_accepts (hb : s.beforeFirstReset = false) (h : accepts s = true) : blockReady s = true := by
  simp only [accepts, reqReady_of_reset s hb, Bool.and_eq_true] at h; exact h.2.2

/-! ### Edges that accept nothing -/

/-- The two forms of an edge that accepts nothing, by the transaction before it. -/
theorem tick_of_txn_none (h : s.txn = none) : tick s = s := by unfold tick; rw [h]

theorem tick_of_presented (r : Response) (h : s.txn = some ⟨0, r⟩) : tick s = { s with txn := none } := by
  unfold tick; rw [h]; rfl

theorem tick_of_waiting (w : Nat) (r : Response) (h : s.txn = some ⟨w + 1, r⟩) : tick s = arrive ⟨w, r⟩ s := by
  unfold tick; rw [h]; rfl

/-- Everything an edge that accepts nothing can do. -/
theorem tick_cases :
    (s.txn = none ∧ tick s = s) ∨ (∃ r, s.txn = some ⟨0, r⟩ ∧ tick s = { s with txn := none }) ∨
      (∃ w r, s.txn = some ⟨w + 1, r⟩ ∧ tick s = arrive ⟨w, r⟩ s) := by
  rcases h : s.txn with _ | ⟨w, r⟩
  · exact .inl ⟨rfl, tick_of_txn_none s h⟩
  · cases w with
    | zero => exact .inr (.inl ⟨r, rfl, tick_of_presented s r h⟩)
    | succ w => exact .inr (.inr ⟨w, r, rfl, tick_of_waiting s w r h⟩)

/-! ### How a meaning ends -/

/-- A response without a fault changes the transaction alone. -/
theorem respond_eq (c : OpClass) (y y2 : Word128) (f : Bool) :
    respond c y y2 f s = .next (answered c y y2 f s) := by
  simp [respond, launch, arrive, answered]

theorem respondBool_eq (c : Bool) :
    respondBool c s = .next (answered .cmp (if c then 1 else 0) 0 c s) := respond_eq s _ _ _ _

/-- A fault's transaction, and STATUS in its response cycle. -/
theorem raiseFault_spec (c : OpClass) (k : Cause) : ∃ u, raiseFault c k s = .next u ∧ FaultAnswered c k.code s u := by
  refine ⟨_, rfl, ⟨Config.faultY s.freeIndex, Config.faultY2 s.freeIndex, Config.faultF s.freeIndex, true, k.code⟩,
    rfl, rfl, ?_⟩
  have h0 : s.config.latency c - 1 = 0 ↔ s.config.latency c ≤ 1 := by omega
  by_cases h : s.config.latency c ≤ 1
  · simp [launch, arrive, takeFault, h, h0.2 h]
  · simp [launch, arrive, h, mt h0.1 h]

end Sys2Proof.Machine
end

