-- ==== Sys2Proof/Laws/Exec.lean ====
section
/-! SUPPORT. Everything an instruction can do, and everything a clock edge can do: the inversion lemmas that proofs over all
instructions and all edges start from. -/

namespace Sys2Proof.Machine

/-- Every instruction but ABS of MIN is answered without a fault, in its class. F is that of a comparison, or false; Y2 is
that of a division, or 0. -/
theorem exec_answered (i : Instr) (h : i ≠ .abs MIN) (s : State) :
    ∃ y y2 f, exec i s = .next (answered i.opClass y y2 f s) ∧
      (i.opClass ≠ .cmp → f = false) ∧ (i.opClass ≠ .div → y2 = 0) := by
  cases i with
  | eq | ne | lt | le | gt | ge | truth | lnot =>
    exact ⟨_, _, _, respondBool_eq _ _, by simp [Instr.opClass], by simp⟩
  | add | sub | neg | sext64 | mul | sra | sll | and | or | xor | not =>
    exact ⟨_, _, _, respond_eq _ _ _ _ _, by simp, by simp⟩
  | abs a =>
    have h : a ≠ MIN := fun e => h (by rw [e])
    exact ⟨mag a, 0, false, by simp only [exec, execAbs, if_neg h]; exact respond_eq _ _ _ _ _, by simp, by simp⟩
  | div a b =>
    obtain ⟨⟨q, r⟩, hp⟩ := divmod128_total a b
    exact ⟨q, r, false, by simp only [exec, execDiv, hp]; exact respond_eq _ _ _ _ _, by simp, by simp [Instr.opClass]⟩
  | rem a b =>
    obtain ⟨⟨q, r⟩, hp⟩ := divmod128_total a b
    exact ⟨r, q, false, by simp only [exec, execRem, hp]; exact respond_eq _ _ _ _ _, by simp, by simp [Instr.opClass]⟩

/-- ABS of MIN raises ABS_MIN (R463). -/
theorem exec_abs_MIN (s : State) : exec (.abs MIN) s = raiseFault .add .absMin s := by
  simp only [exec, execAbs, if_true]

/-- Everything an instruction can do: one transaction is launched in its class, and its response is without a fault, or it is
the fault of ABS of MIN. -/
theorem exec_cases (i : Instr) (s : State) :
    ∃ r, exec i s = .next (launch i.opClass r s) ∧
      ((r.err = false ∧ r.cause = 0) ∨ (i = .abs MIN ∧ r.err = true ∧ r.cause = 1)) := by
  by_cases h : i = .abs MIN
  · subst h
    exact ⟨_, exec_abs_MIN s, .inr ⟨rfl, rfl, rfl⟩⟩
  · obtain ⟨y, y2, f, he, -⟩ := exec_answered i h s
    refine ⟨⟨y, y2, f, false, 0⟩, ?_, .inl ⟨rfl, rfl⟩⟩
    rw [he, ← respond_eq]; rfl

/-- Everything an edge can do that has a next state: reset; an edge before the first reset; an accepted request launched, with
a legal response in the class of some instruction; or an edge that accepts nothing. -/
theorem step_cases {s t : State} (h : step s = .next t) :
    ((currentPins s).rst = true ∧ t = applyReset (advance s)) ∨
    ((currentPins s).rst = false ∧ s.beforeFirstReset = true ∧ t = powerUpEdge (advance s)) ∨
    ((currentPins s).rst = false ∧ s.beforeFirstReset = false ∧ refusedStatus s.status = none ∧ accepts s = true ∧
      ∃ c r, t = launch c r (advance s) ∧ LegalResponse r) ∨
    ((currentPins s).rst = false ∧ s.beforeFirstReset = false ∧ refusedStatus s.status = none ∧ accepts s = false ∧
      t = tick (advance s)) := by
  unfold step at h
  by_cases hr : (currentPins s).rst = true
  · rw [if_pos hr] at h
    exact .inl ⟨hr, by cases h; rfl⟩
  rw [if_neg hr] at h
  rw [Bool.not_eq_true] at hr
  by_cases hb : s.beforeFirstReset = true
  · rw [if_pos hb] at h
    exact .inr (.inl ⟨hr, hb, by cases h; rfl⟩)
  rw [if_neg hb] at h
  rw [Bool.not_eq_true] at hb
  cases hst : refusedStatus s.status with
  | some r => rw [hst] at h; cases h
  | none =>
    rw [hst] at h
    by_cases ha : accepts s = true
    · refine .inr (.inr (.inl ⟨hr, hb, rfl, ha, ?_⟩))
      simp only [if_pos ha] at h
      cases hd : decode (currentPins s).request with
      | ok i =>
        obtain ⟨r, he, hl⟩ := exec_cases i (advance s)
        rw [hd] at h; simp only [he] at h
        exact ⟨_, r, by cases h; rfl, hl.elim .inl fun h => .inr ⟨h.2.1, .inl h.2.2⟩⟩
      | error e =>
        rw [hd] at h
        refine ⟨.misc, _, by cases h; rfl, .inr ⟨rfl, .inr rfl⟩⟩
    · simp only [if_neg ha] at h
      rw [Bool.not_eq_true] at ha
      exact .inr (.inr (.inr ⟨hr, hb, rfl, ha, by cases h; rfl⟩))

/-- The edges that have a next state. -/
theorem step_next (s : State)
    (h : (currentPins s).rst = true ∨ s.beforeFirstReset = true ∨ refusedStatus s.status = none) :
    ∃ t, step s = .next t := by
  unfold step
  by_cases hr : (currentPins s).rst = true
  · exact ⟨_, if_pos hr⟩
  rw [if_neg hr]
  by_cases hb : s.beforeFirstReset = true
  · exact ⟨_, if_pos hb⟩
  rw [if_neg hb, (h.resolve_left hr).resolve_left hb]
  by_cases ha : accepts s = true
  · simp only [if_pos ha]
    cases decode (currentPins s).request with
    | ok i => obtain ⟨r, he, -⟩ := exec_cases i (advance s); exact ⟨_, he⟩
    | error e => exact ⟨_, rfl⟩
  · simp only [if_neg ha]; exact ⟨_, rfl⟩

/-- An edge with reset. -/
theorem step_of_rst (s : State) (hr : (currentPins s).rst = true) : step s = .next (applyReset (advance s)) := by
  unfold step; rw [if_pos hr]

/-- An edge without reset before the first reset. -/
theorem step_of_beforeFirstReset (s : State) (hr : (currentPins s).rst = false) (hb : s.beforeFirstReset = true) :
    step s = .next (powerUpEdge (advance s)) := by
  unfold step; rw [hr, hb]; rfl

/-- An edge that accepts nothing, after the first reset. -/
theorem step_of_not_accepts (s : State) (hb : s.beforeFirstReset = false) (hr : (currentPins s).rst = false)
    (hn : refusedStatus s.status = none) (ha : accepts s = false) : step s = .next (tick (advance s)) := by
  unfold step; rw [hr, hb, hn]; simp [ha]

/-- An edge that accepts a request which selects `i`, after the first reset. -/
theorem step_of_accepts (s : State) (i : Instr) (hb : s.beforeFirstReset = false) (hn : refusedStatus s.status = none)
    (ha : accepts s = true) (hd : decode (currentPins s).request = .ok i) : step s = exec i (advance s) := by
  unfold step; rw [rst_of_accepts s ha, hb, hn]; simp [ha, hd]

/-! ### Runs of edges -/

theorem run_succ_of_next (M : Host.Core) (n : Nat) (s t : M.State) (h : M.step s = .next t) :
    M.run (n + 1) s = M.run n t := by simp only [Host.Core.run, h]

theorem run_succ_of_refused (M : Host.Core) (n : Nat) (s : M.State) (r : M.Refusal) (h : M.step s = .refused r) :
    M.run (n + 1) s = .refused r := by simp only [Host.Core.run, h]

theorem edges_zero (s : State) : edges 0 s = .next s := Host.Core.run.eq_1 Sys2Proof.core s

theorem edges_succ (n : Nat) {s t : State} (h : step s = .next t) : edges (n + 1) s = edges n t :=
  run_succ_of_next Sys2Proof.core n s t h

/-- A run of n + 1 edges that ends in a state starts with an edge that has a next state. -/
theorem edges_succ_next (n : Nat) {s u : State} (h : edges (n + 1) s = .next u) :
    ∃ t, step s = .next t ∧ edges n t = .next u := by
  cases hs : step s with
  | next t => exact ⟨t, rfl, by rw [← edges_succ n hs]; exact h⟩
  | fault r => exact nomatch r
  | refused r =>
    have hr : edges (n + 1) s = .refused r := run_succ_of_refused Sys2Proof.core n s r hs
    rw [hr] at h; cases h

end Sys2Proof.Machine
end

