-- ==== Sys2Proof/Laws/PerInstr.lean ====
section
/-! SUPPORT. Statements for all instructions, made per instruction: the family RowOfMap, that an instruction's command word
selects the row of the opcode map with its mnemonic, and that this row builds the instruction from the operands of the
request that carries it (spec/30_encoding.md R301, R310). -/

namespace Sys2Proof.Laws.RowOfMap

/-- The row that the instruction's command word selects has its mnemonic, and builds it back from its operands. -/
def Statement (i : Instr) : Prop :=
  (opcodeMap.find? (fun row => row.cmd == i.command)).map
    (fun row => (row.mnemonic, row.build i.operands.1 i.operands.2)) = some (i.mnemonic, i)

/-- A row found by the instruction's command word proves the statement about it. -/
theorem of_command {i : Instr} {c : Command} (h : i.command = c)
    (hr : (opcodeMap.find? (fun row => row.cmd == c)).map
      (fun row => (row.mnemonic, row.build i.operands.1 i.operands.2)) = some (i.mnemonic, i)) : Statement i := by
  unfold Statement; rw [h]; exact hr

theorem eq (a b : Word128) : Statement (.eq a b) :=
  of_command (c := 0x00) (by unfold Instr.command; simp [Instr.groupSel, Group.code]) rfl
theorem ne (a b : Word128) : Statement (.ne a b) :=
  of_command (c := 0x01) (by unfold Instr.command; simp [Instr.groupSel, Group.code]) rfl
theorem lt (a b : Word128) : Statement (.lt a b) :=
  of_command (c := 0x02) (by unfold Instr.command; simp [Instr.groupSel, Group.code]) rfl
theorem le (a b : Word128) : Statement (.le a b) :=
  of_command (c := 0x03) (by unfold Instr.command; simp [Instr.groupSel, Group.code]) rfl
theorem gt (a b : Word128) : Statement (.gt a b) :=
  of_command (c := 0x04) (by unfold Instr.command; simp [Instr.groupSel, Group.code]) rfl
theorem ge (a b : Word128) : Statement (.ge a b) :=
  of_command (c := 0x05) (by unfold Instr.command; simp [Instr.groupSel, Group.code]) rfl
theorem truth (a : Word128) : Statement (.truth a) :=
  of_command (c := 0x06) (by unfold Instr.command; simp [Instr.groupSel, Group.code]) rfl
theorem lnot (a : Word128) : Statement (.lnot a) :=
  of_command (c := 0x07) (by unfold Instr.command; simp [Instr.groupSel, Group.code]) rfl
theorem add (a b : Word128) : Statement (.add a b) :=
  of_command (c := 0x08) (by unfold Instr.command; simp [Instr.groupSel, Group.code]) rfl
theorem sub (a b : Word128) : Statement (.sub a b) :=
  of_command (c := 0x09) (by unfold Instr.command; simp [Instr.groupSel, Group.code]) rfl
theorem neg (a : Word128) : Statement (.neg a) :=
  of_command (c := 0x0A) (by unfold Instr.command; simp [Instr.groupSel, Group.code]) rfl
theorem abs (a : Word128) : Statement (.abs a) :=
  of_command (c := 0x0B) (by unfold Instr.command; simp [Instr.groupSel, Group.code]) rfl
theorem sext64 (v : Word64) : Statement (.sext64 v) := by
  have h : lo (zext128 v) = v := BitVec.extractLsb'_append_eq_right
  refine of_command (c := 0x0C) (by unfold Instr.command; simp [Instr.groupSel, Group.code]) ?_
  show some ("SEXT64", Instr.sext64 (lo (zext128 v))) = some ("SEXT64", Instr.sext64 v)
  rw [h]
theorem mul (a b : Word128) : Statement (.mul a b) :=
  of_command (c := 0x10) (by unfold Instr.command; simp [Instr.groupSel, Group.code]) rfl
theorem div (a b : Word128) : Statement (.div a b) :=
  of_command (c := 0x11) (by unfold Instr.command; simp [Instr.groupSel, Group.code]) rfl
theorem rem (a b : Word128) : Statement (.rem a b) :=
  of_command (c := 0x12) (by unfold Instr.command; simp [Instr.groupSel, Group.code]) rfl
theorem sra (a b : Word128) : Statement (.sra a b) :=
  of_command (c := 0x18) (by unfold Instr.command; simp [Instr.groupSel, Group.code]) rfl
theorem sll (a b : Word128) : Statement (.sll a b) :=
  of_command (c := 0x19) (by unfold Instr.command; simp [Instr.groupSel, Group.code]) rfl
theorem and (a b : Word128) : Statement (.and a b) :=
  of_command (c := 0x1A) (by unfold Instr.command; simp [Instr.groupSel, Group.code]) rfl
theorem or (a b : Word128) : Statement (.or a b) :=
  of_command (c := 0x1B) (by unfold Instr.command; simp [Instr.groupSel, Group.code]) rfl
theorem xor (a b : Word128) : Statement (.xor a b) :=
  of_command (c := 0x1C) (by unfold Instr.command; simp [Instr.groupSel, Group.code]) rfl
theorem not (a : Word128) : Statement (.not a) :=
  of_command (c := 0x1D) (by unfold Instr.command; simp [Instr.groupSel, Group.code]) rfl

end Sys2Proof.Laws.RowOfMap
end

