-- ==== Sys2Proof/Laws/Words.lean ====
section
/-! SUPPORT. The words of a value, and the word-by-word adder, subtractor, negation and comparisons as operations on the
whole 128-bit pattern. -/

namespace Sys2Proof.Machine

theorem toNat_hi (v : Word128) : (hi v).toNat = v.toNat / 2 ^ 64 := by
  have := v.isLt
  simp [hi, Nat.shiftRight_eq_div_pow]; omega

theorem toNat_lo (v : Word128) : (lo v).toNat = v.toNat % 2 ^ 64 := by
  simp [lo]

theorem toNat_words (h l : Word64) : (words h l).toNat = h.toNat * 2 ^ 64 + l.toNat := by
  unfold words
  rw [BitVec.toNat_append, ← Nat.shiftLeft_add_eq_or_of_lt l.isLt, Nat.shiftLeft_eq]

@[simp] theorem hi_words (h l : Word64) : hi (words h l) = h := by
  apply BitVec.eq_of_toNat_eq
  have := h.isLt; have := l.isLt
  rw [toNat_hi, toNat_words]; omega

@[simp] theorem lo_words (h l : Word64) : lo (words h l) = l := by
  apply BitVec.eq_of_toNat_eq
  have := h.isLt; have := l.isLt
  rw [toNat_lo, toNat_words]; omega

@[simp] theorem words_hi_lo (v : Word128) : words (hi v) (lo v) = v := by
  apply BitVec.eq_of_toNat_eq
  rw [toNat_words, toNat_hi, toNat_lo]; omega

/-- A value is the pair of its words, so equal words make equal values (R404). -/
theorem ext_words {v w : Word128} (h : hi v = hi w) (l : lo v = lo w) : v = w := by
  rw [← words_hi_lo v, ← words_hi_lo w, h, l]

theorem toNat_zextBool64 (c : Bool) : (zextBool64 c).toNat = if c = true then 1 else 0 := by cases c <;> rfl

/-- The carry as a number (R452). -/
theorem toNat_carry (a b : Word64) : (zextBool64 (carry64 a b)).toNat = (a.toNat + b.toNat) / 2 ^ 64 := by
  have := a.isLt; have := b.isLt
  simp only [toNat_zextBool64, carry64, BitVec.ult, BitVec.toNat_add, decide_eq_true_eq]
  split <;> omega

/-- The borrow as a number (R454). -/
theorem toNat_borrow (a b : Word64) : (zextBool64 (borrow64 a b)).toNat = if a.toNat < b.toNat then 1 else 0 := by
  have := a.isLt; have := b.isLt
  simp only [toNat_zextBool64, borrow64, BitVec.ult, BitVec.toNat_sub, decide_eq_true_eq]
  split <;> split <;> omega

/-- R102: the sign is bit 127. -/
theorem isNegative_iff (v : Word128) : isNegative v = true ↔ 2 ^ 127 ≤ v.toNat := by
  have := v.isLt
  simp [isNegative, BitVec.slt, BitVec.toInt_eq_toNat_cond, toNat_hi]
  split <;> omega

theorem isNegative_eq_msb (v : Word128) : isNegative v = v.msb := by
  rw [Bool.eq_iff_iff, isNegative_iff, BitVec.msb_eq_decide]; simp

/-- ADD128 is addition modulo 2^128 (R452). -/
theorem add128_eq (a b : Word128) : add128 a b = a + b := by
  apply BitVec.eq_of_toNat_eq
  have := a.isLt; have := b.isLt
  simp only [add128, toNat_words, BitVec.toNat_add, toNat_carry, toNat_hi, toNat_lo]
  omega

/-- SUB128 is subtraction modulo 2^128 (R454). -/
theorem sub128_eq (a b : Word128) : sub128 a b = a - b := by
  apply BitVec.eq_of_toNat_eq
  have := a.isLt; have := b.isLt
  simp only [sub128, toNat_words, BitVec.toNat_sub, toNat_borrow, toNat_hi, toNat_lo]
  split <;> omega

/-- NEG128 is negation modulo 2^128 (R456). -/
theorem neg128_eq (a : Word128) : neg128 a = -a := by
  apply BitVec.eq_of_toNat_eq
  have := a.isLt
  have hl : (0 - lo a).toNat = (2 ^ 64 - a.toNat % 2 ^ 64) % 2 ^ 64 := by
    rw [BitVec.toNat_sub, toNat_lo, show (0 : Word64).toNat = 0 from rfl, Nat.add_zero]
  have h0 : ((0 - lo a == 0) = true) ↔ a.toNat % 2 ^ 64 = 0 := by
    rw [beq_iff_eq, ← BitVec.toNat_inj, hl, show (0 : Word64).toNat = 0 from rfl]
    omega
  simp only [neg128, toNat_words, BitVec.toNat_add, BitVec.toNat_not, BitVec.toNat_neg, toNat_zextBool64, h0, hl,
    toNat_hi]
  split <;> omega

/-- MAG is the absolute value, read unsigned, of every operand, MIN included (R457). -/
theorem toNat_mag (a : Word128) : (mag a).toNat = a.toInt.natAbs := by
  have := a.isLt
  unfold mag
  rw [neg128_eq, BitVec.toInt_eq_toNat_cond]
  by_cases h : isNegative a = true
  · rw [if_pos h, BitVec.toNat_neg]; rw [isNegative_iff] at h; split <;> omega
  · rw [if_neg h]; rw [isNegative_iff] at h; split <;> omega

/-- SEQ128 is equality (R404). -/
theorem seq128_eq (a b : Word128) : seq128 a b = decide (a = b) := by
  rw [Bool.eq_iff_iff]
  simp only [seq128, Bool.and_eq_true, beq_iff_eq, decide_eq_true_eq]
  exact ⟨fun h => ext_words h.1 h.2, fun h => by rw [h]; exact ⟨rfl, rfl⟩⟩

end Sys2Proof.Machine
end

