-- ==== Sys2Proof/Tests/Slice0.lean ====
section
/-! SUPPORT. Tests of the model, each expected result taken from spec/ (the vectors V1 to V161 of
spec/95_test_vectors.md, or the rule named), and for each obligation with hypotheses a witness that meets all of them. -/

namespace Sys2Proof.Tests

open Sys2Proof.Machine

/-! ### Helpers -/

/-- The state after reset, with one request offered. -/
def offered (c : Command) (a b : Word128) : State := { State.reset with pins := [offer ⟨c, a, b⟩] }

/-- Y, Y2, F and err of the response to one request after reset. -/
def result (c : Command) (a b : Word128) : Option (Word128 × Word128 × Bool × Bool) :=
  match step (offered c a b) with
  | .next t => t.txn.map fun x => (x.response.y, x.response.y2, x.response.f, x.response.err)
  | _ => none

/-- A result without a fault. -/
def ok (y y2 : Word128) (f : Bool) : Option (Word128 × Word128 × Bool × Bool) := some (y, y2, f, false)

/-- err, cause and STATUS in the response cycle of one request after reset (every latency is 1 there). -/
def report (c : Command) (a b : Word128) : Option (Bool × BitVec 4 × BitVec 8) :=
  match step (offered c a b) with
  | .next t => t.txn.map fun x => (x.response.err, x.response.cause, t.status)
  | _ => none

/-- The next state, if there is one. -/
def after (s : State) : Option State :=
  match step s with
  | .next t => some t
  | _ => none

/-- The pattern of an integer. -/
def int (n : Int) : Word128 := BitVec.ofInt 128 n

/-! ### WellFormed, and the ill-formed terms it refuses -/

theorem test_command_with_RSV_001_is_ill_formed : Command.wellFormed 0b00101000 = false := by decide
theorem test_command_with_RSV_100_is_ill_formed : Command.rsvZero 0b10000000 = false := by decide
theorem test_command_with_OPC_01101_is_ill_formed : Command.wellFormed 0b00001101 = false := by decide
theorem test_request_with_OPC_11110_is_ill_formed : (⟨0b00011110, 1, 1⟩ : Request).wellFormed = false := by decide
theorem test_parameters_with_a_zero_latency_are_ill_formed :
    (⟨.booth, ⟨0, 1, 1, 1, 1, 1, 1⟩, .highFirst⟩ : Config).wellFormed = false ∧
    (⟨.booth, ⟨1, 0, 1, 1, 1, 1, 1⟩, .highFirst⟩ : Config).wellFormed = false ∧
    (⟨.booth, ⟨1, 1, 0, 1, 1, 1, 1⟩, .highFirst⟩ : Config).wellFormed = false ∧
    (⟨.booth, ⟨1, 1, 1, 0, 1, 1, 1⟩, .highFirst⟩ : Config).wellFormed = false ∧
    (⟨.booth, ⟨1, 1, 1, 1, 0, 1, 1⟩, .highFirst⟩ : Config).wellFormed = false ∧
    (⟨.booth, ⟨1, 1, 1, 1, 1, 0, 1⟩, .highFirst⟩ : Config).wellFormed = false ∧
    (⟨.booth, ⟨1, 1, 1, 1, 1, 1, 0⟩, .highFirst⟩ : Config).wellFormed = false := by decide
theorem test_parameters_of_R832_are_well_formed :
    (⟨.schoolbook32, ⟨1, 1, 4, 130, 1, 1, 1⟩, .lowFirst⟩ : Config).wellFormed = true := by decide

/-! ### Decoding: {RSV, GRP, SEL} written out bit by bit from R300 and R310 -/

theorem test_decode_comparison :
    decodeTableWord 8 0b00000000 = some (.eq 0 0) ∧ decodeTableWord 8 0b00000001 = some (.ne 0 0) ∧
    decodeTableWord 8 0b00000010 = some (.lt 0 0) ∧ decodeTableWord 8 0b00000011 = some (.le 0 0) ∧
    decodeTableWord 8 0b00000100 = some (.gt 0 0) ∧ decodeTableWord 8 0b00000101 = some (.ge 0 0) ∧
    decodeTableWord 8 0b00000110 = some (.truth 0) ∧ decodeTableWord 8 0b00000111 = some (.lnot 0) := by decide
theorem test_decode_additive :
    decodeTableWord 8 0b00001000 = some (.add 0 0) ∧ decodeTableWord 8 0b00001001 = some (.sub 0 0) ∧
    decodeTableWord 8 0b00001010 = some (.neg 0) ∧ decodeTableWord 8 0b00001011 = some (.abs 0) ∧
    decodeTableWord 8 0b00001100 = some (.sext64 0) := by decide
theorem test_decode_multiply_divide :
    decodeTableWord 8 0b00010000 = some (.mul 0 0) ∧ decodeTableWord 8 0b00010001 = some (.div 0 0) ∧
    decodeTableWord 8 0b00010010 = some (.rem 0 0) := by decide
theorem test_decode_shift_bitwise :
    decodeTableWord 8 0b00011000 = some (.sra 0 0) ∧ decodeTableWord 8 0b00011001 = some (.sll 0 0) ∧
    decodeTableWord 8 0b00011010 = some (.and 0 0) ∧ decodeTableWord 8 0b00011011 = some (.or 0 0) ∧
    decodeTableWord 8 0b00011100 = some (.xor 0 0) ∧ decodeTableWord 8 0b00011101 = some (.not 0) := by decide
/-- R320, R322: the codes next to the listed ones. -/
theorem test_decode_reserved :
    decodeTableWord 8 0x0D = none ∧ decodeTableWord 8 0x13 = none ∧ decodeTableWord 8 0x17 = none ∧
    decodeTableWord 8 0x1E = none ∧ decodeTableWord 8 0x1F = none ∧ decodeTableWord 8 0x20 = none ∧
    decodeTableWord 8 0x28 = none ∧ decodeTableWord 8 0xFF = none := by decide
theorem test_decode_names_the_reason :
    decode ⟨0x1E, 1, 1⟩ = .error .unassignedOpcode ∧ decode ⟨0x28, 1, 1⟩ = .error .reservedField := by decide
/-- R301: the operands of each form, and the ignored ones. -/
theorem test_decode_operands :
    decode ⟨0x09, 7, 9⟩ = .ok (.sub 7 9) ∧ decode ⟨0x0A, 7, 9⟩ = .ok (.neg 7) ∧
    decode ⟨0x0C, words 0x1234 5, 9⟩ = .ok (.sext64 5) ∧ decode ⟨0x18, 7, 9⟩ = .ok (.sra 7 9) := by decide
theorem test_encode : encode (.rem 7 9) = ⟨0b00010010, 7, 9⟩ ∧ encode (.not 7) = ⟨0b00011101, 7, 0⟩ := by decide
theorem test_assemble : assemble "DIV" (int (-100)) (some 7) = some ⟨0x11, int (-100), 7⟩ ∧
    assemble "NEG" 1 (some 2) = none := by decide

/-! ### One request after reset -/

theorem test_SEXT64 : result 0x0C (words 0 0x8000000000000000) 0 = ok (words 0xFFFFFFFFFFFFFFFF 0x8000000000000000) 0 false ∧
    result 0x0C (words 0x1234 5) 0 = ok 5 0 false := by decide -- V1, V4
theorem test_EQ : result 0x00 MIN MIN = ok 1 0 true ∧ result 0x00 (words 1 0) 1 = ok 0 0 false := by decide -- V7, V8
theorem test_NE : result 0x01 0 (words 1 0) = ok 1 0 true ∧ result 0x01 7 7 = ok 0 0 false := by decide -- V9, V10
theorem test_LT : result 0x02 1 (words 0 0x8000000000000000) = ok 1 0 true ∧
    result 0x02 0 (int (-1)) = ok 0 0 false := by decide -- V13, V16
theorem test_LE : result 0x03 5 5 = ok 1 0 true ∧ result 0x03 MAX MIN = ok 0 0 false := by decide -- V18, V19
theorem test_GT : result 0x04 0 (int (-1)) = ok 1 0 true ∧ result 0x04 3 3 = ok 0 0 false := by decide -- V22, V23
theorem test_GE : result 0x05 MIN (words 0x8000000000000000 1) = ok 0 0 false ∧
    result 0x05 (int (-2)) (int (-2)) = ok 1 0 true := by decide -- V25, V26
theorem test_TRUTH : result 0x06 MIN 0 = ok 1 0 true ∧ result 0x06 0 0 = ok 0 0 false := by decide -- V27, V28
theorem test_LNOT : result 0x07 0 0 = ok 1 0 true ∧ result 0x07 MIN 0 = ok 0 0 false := by decide -- V30, V31
theorem test_ADD : result 0x08 (words 0 0xFFFFFFFFFFFFFFFF) 1 = ok (words 1 0) 0 false ∧
    result 0x08 MAX 1 = ok MIN 0 false := by decide -- V33, V34
theorem test_SUB : result 0x09 (words 1 0) 1 = ok (words 0 0xFFFFFFFFFFFFFFFF) 0 false ∧
    result 0x09 MIN 1 = ok MAX 0 false := by decide -- V41, V42
theorem test_NEG : result 0x0A MIN 0 = ok MIN 0 false ∧
    result 0x0A (words 1 0) 0 = ok (words 0xFFFFFFFFFFFFFFFF 0) 0 false := by decide -- V47, V49
theorem test_ABS : result 0x0B (words 0x8000000000000000 1) 0 = ok MAX 0 false ∧
    result 0x0B (int (-30)) 0 = ok 30 0 false := by decide -- V53, V56
theorem test_ABS_of_MIN_faults : report 0x0B MIN 0 = some (true, 1, 0x03) := by decide -- V57, P3 step 4
theorem test_MUL : result 0x10 10 (int (-3)) = ok (int (-30)) 0 false ∧ result 0x10 MIN NEG_ONE = ok MIN 0 false := by
  decide -- V58, V61
/-- V72, by each datapath. -/
theorem test_multiplier_datapaths :
    umul128 .nativeWidening (words 0x123456789ABCDEF0 0xFEDCBA9876543210) (words 0 0x0FEDCBA987654321)
      = words 0x3212849961EF529C 0xCDEEC6CD7A44A410 ∧
    umul128 .schoolbook32 (words 0x123456789ABCDEF0 0xFEDCBA9876543210) (words 0 0x0FEDCBA987654321)
      = words 0x3212849961EF529C 0xCDEEC6CD7A44A410 ∧
    umul128 .booth (words 0x123456789ABCDEF0 0xFEDCBA9876543210) (words 0 0x0FEDCBA987654321)
      = words 0x3212849961EF529C 0xCDEEC6CD7A44A410 := by decide +kernel
theorem test_DIV : result 0x11 (int (-100)) 7 = ok (int (-14)) (int (-2)) false ∧
    result 0x11 7 (int (-2)) = ok (int (-3)) 1 false := by decide -- V73, V77
theorem test_DIV_of_MIN : result 0x11 MIN NEG_ONE = ok MIN 0 false ∧
    result 0x11 MIN 3 = ok (words 0xD555555555555555 0x5555555555555556) (int (-2)) false := by decide +kernel -- V91, V95
theorem test_REM : result 0x12 (int (-7)) 2 = ok (int (-1)) (int (-3)) false ∧ result 0x12 5 0 = ok 5 0 false := by
  decide -- V79, V84
theorem test_SRA : result 0x18 (int (-7)) 1 = ok (int (-4)) 0 false ∧
    result 0x18 (words 0x8000000000000001 0xF) 68 = ok (words 0xFFFFFFFFFFFFFFFF 0xF800000000000000) 0 false := by
  decide -- V108, V119
theorem test_SRA_by_128 : result 0x18 NEG_ONE 128 = ok 0 0 false ∧ result 0x18 5 (words 1 0) = ok 0 0 false := by
  decide -- V113, V115
theorem test_SLL : result 0x19 1 127 = ok 0 0 false ∧ result 0x19 0xFF 120 = ok (words 0x7F00000000000000 0) 0 false := by
  decide -- V127, V132
theorem test_SLL_at_64_and_of_a_negative_value :
    result 0x19 (words 0 0x8000000000000000) 64 = ok 0 0 false ∧ result 0x19 NEG_ONE 0 = ok 0 0 false := by
  decide -- V131, V123
theorem test_AND : result 0x1A 7 3 = ok 3 0 false ∧ result 0x1A MIN MAX = ok 0 0 false := by decide -- V135, V138
theorem test_OR : result 0x1B 5 2 = ok 7 0 false ∧ result 0x1B MIN MAX = ok NEG_ONE 0 false := by decide -- V139, V140
theorem test_XOR : result 0x1C 6 3 = ok 5 0 false ∧ result 0x1C MAX NEG_ONE = ok MIN 0 false := by decide -- V142, V143
theorem test_NOT : result 0x1D MIN 0 = ok MAX 0 false ∧ result 0x1D 5 0 = ok (int (-6)) 0 false := by decide -- V146, V147
theorem test_reserved_command_faults :
    report 0x0D 1 1 = some (true, 2, 0x05) ∧ report 0x1F 1 1 = some (true, 2, 0x05) ∧
    report 0x20 1 1 = some (true, 2, 0x05) ∧ report 0xFF 1 1 = some (true, 2, 0x05) := by decide -- V148, V157, V158, V161
/-- R605: the helper's range is [1, 64). -/
theorem test_shift_helper_range :
    shiftHelper 1 0 = .error .shiftHelperRange ∧ shiftHelper 1 1 = .ok 2 ∧
    shiftHelper 1 63 = .ok 0x8000000000000000 ∧ shiftHelper 1 64 = .error .shiftHelperRange := by decide
/-- R557. -/
theorem test_HIGHBIT : highBit 0 = 0 ∧ highBit 1 = 1 ∧ highBit (words 1 0) = 65 ∧ highBit MAX = 127 := by decide +kernel

/-! ### The ports, cycle by cycle -/

/-- Parameters with a latency above 1 (those of R832). -/
def slow : Config := ⟨.schoolbook32, ⟨1, 1, 4, 130, 1, 1, 1⟩, .lowFirst⟩

/-- A response without a fault. -/
def plain : Response := ⟨7, 0, false, false, 0⟩

/-- A fault's response, with cause 1. -/
def faulty : Response := ⟨0, 0, false, true, 1⟩

/-- A block whose transaction has `w` edges before its response `r`. -/
def waiting (w : Nat) (r : Response) : State := { State.reset with txn := some ⟨w, r⟩, config := slow }

/-- A block in the response cycle of a fault. -/
def faulted : State := { waiting 0 faulty with status := 0x03 }

/-- A host that drives `rst`. -/
def resetting : HostPins := { idlePins with rst := true }

/-- A block before its first reset, with a STATUS that no reset block has, whose host drives `rst`. -/
def poweredUp : State := { waiting 3 faulty with beforeFirstReset := true, status := 0xFF, pins := [resetting] }

theorem test_host_with_all_signals_0_leaves_the_block_idle :
    after State.reset = some { State.reset with freeIndex := 1 } := by decide
theorem test_busy_block_is_not_ready : reqReady (waiting 3 plain) = false ∧ rspValid (waiting 3 plain) = false := by decide
theorem test_response_cycle_is_ready : reqReady (waiting 0 plain) = true ∧ rspValid (waiting 0 plain) = true := by decide
/-- P3 steps 5 and 6. -/
theorem test_FAULTED_block_accepts_nothing :
    after { faulted with pins := [offer ⟨0x08, 1, 1⟩] } = some { faulted with txn := none, freeIndex := 1 } := by decide
theorem test_reset_leaves_FAULTED : after { faulted with pins := [resetting] }
    = some { faulted with status := 0x00, txn := none, freeIndex := 1 } := by decide
/-- R710, R814: a fault of latency above 1 is taken in the response cycle. -/
theorem test_fault_is_taken_in_the_response_cycle :
    after (waiting 1 faulty) = some { faulted with freeIndex := 1 } ∧ (waiting 1 faulty).status = 0x00 := by decide
/-- R801, R802, P3's start: the first reset edge, from any STATUS. -/
theorem test_first_reset : after poweredUp = some { State.reset with config := slow, freeIndex := 1 } := by decide
theorem test_power_up_edge_stays_before_the_first_reset :
    (after { poweredUp with pins := [] }).map (fun t => (t.beforeFirstReset, t.txn)) = some (true, none) := by decide
/-- The words of a value in a host's memory, R201. -/
theorem test_host_word_order : HostWordOrder.lowFirst.store 1 2 = [2, 1] ∧ HostWordOrder.highFirst.store 1 2 = [1, 2] := by
  decide
/-! ### Witnesses: for each obligation with hypotheses, states and operands that meet all of them

Some state that meets the invariant: idle, busy, and FAULTED. -/

theorem inv_of_txn_none {s : State} (h0 : s.beforeFirstReset = false) (h1 : LegalStatus s.status) (h2 : s.config.wellFormed = true) (h : s.txn = none) :
    Inv s := by
  refine ⟨h0, h1, h2, ?_, ?_, ?_, ?_⟩ <;> intro t ht <;> rw [h] at ht <;> cases ht

theorem offered_meets_the_invariant (c : Command) (a b : Word128) : Inv (offered c a b) :=
  inv_of_txn_none rfl (by show LegalStatus 0x00; unfold LegalStatus; decide) (by show Config.atReset.wellFormed = true; decide) rfl

theorem waiting_meets_the_invariant : Inv (waiting 3 plain) := by
  refine ⟨rfl, by unfold LegalStatus; decide, by decide, ?_, ?_, ?_, ?_⟩ <;> intro t ht <;> cases ht
  · exact .inl ⟨rfl, rfl⟩
  · exact ⟨.mul, by decide⟩
  · intro h; exact absurd h (by decide)
  · intro h; exact absurd h (by decide)

theorem faulted_meets_the_invariant : Inv faulted := by
  refine ⟨rfl, by unfold LegalStatus; decide, by decide, ?_, ?_, ?_, ?_⟩ <;> intro t ht <;> cases ht
  · exact .inr ⟨rfl, .inl rfl⟩
  · exact ⟨.mul, by decide⟩
  · intro _; exact ⟨rfl, rfl⟩
  · intro _ _; decide

/-- The decidable part of a step's hypothesis: a step that has a next state has one. -/
theorem next_of_after {s t : State} (h : after s = some t) : step s = .next t := by
  unfold after at h
  cases hs : step s with
  | next u => rw [hs] at h; cases h; rfl
  | fault r => exact nomatch r
  | refused r => rw [hs] at h; cases h

/-- Past the end of the host's signals, nothing is driven. -/
theorem pinsAt_past_one (s : State) (p : HostPins) (h : s.pins = [p]) (j : Nat) (hj : 1 ≤ j) : pinsAt s j = idlePins := by
  obtain ⟨k, rfl⟩ : ∃ k, j = k + 1 := ⟨j - 1, by omega⟩
  simp [pinsAt, h]

theorem witness_OpcodeMap_selects_the_22_commands : ∃ i, decode ⟨0x1D, 9, 7⟩ = .ok i := ⟨.not 9, by decide⟩

theorem witness_Decoding_reads_the_command_alone :
    (⟨0x08, 1, 2⟩ : Request).cmd = (⟨0x08, 3, 4⟩ : Request).cmd ∧ decode ⟨0x08, 1, 2⟩ = .ok (.add 1 2) ∧
    (⟨0x1E, 1, 2⟩ : Request).cmd = (⟨0x1E, 3, 4⟩ : Request).cmd ∧
    decode ⟨0x1E, 1, 2⟩ = .error .unassignedOpcode := by decide

theorem witness_Encode_of_decode_is_the_request_read :
    (decode ⟨0x0C, words 9 5, 7⟩ = .ok (.sext64 5)) ∧
    (decode ⟨0x1D, 9, 7⟩ = .ok (.not 9) ∧ (Instr.not 9).mnemonic ≠ "SEXT64") ∧
    (decode ⟨0x09, 9, 7⟩ = .ok (.sub 9 7) ∧
      (Instr.sub 9 7).mnemonic ∉ ["TRUTH", "LNOT", "NEG", "ABS", "SEXT64", "NOT"]) := by decide

theorem witness_Assembler_drives_zero_for_an_omitted_operand :
    "EQ" ∈ ["EQ", "NE", "LT", "LE", "GT", "GE", "ADD", "SUB", "MUL", "DIV", "REM", "SRA", "SLL", "AND", "OR", "XOR"] ∧
    "NOT" ∈ ["TRUTH", "LNOT", "NEG", "ABS", "SEXT64", "NOT"] := by decide

theorem witness_Step_executes_the_decoded_instruction :
    (offered 0x08 1 2).beforeFirstReset = false ∧ refusedStatus (offered 0x08 1 2).status = none ∧ (currentPins (offered 0x08 1 2)).rst = false ∧
    (currentPins (offered 0x08 1 2)).reqValid = true ∧ reqReady (offered 0x08 1 2) = true ∧
    decode (currentPins (offered 0x08 1 2)).request = .ok (.add 1 2) := by decide

theorem witness_Fetch_word_is_executed_by_the_next_step :
    decodeTableWord 8 0x00 = some (.eq 0 0) ∧ decodeTableWord 8 0x1D = some (.not 0) := by decide

theorem witness_Reset_state_is_idle_and_ready :
    (offered 0x08 1 2).beforeFirstReset = State.reset.beforeFirstReset ∧ (offered 0x08 1 2).status = State.reset.status ∧ (offered 0x08 1 2).txn = State.reset.txn ∧
    (currentPins (offered 0x08 1 2)).rst = false := by decide

theorem witness_Driving_rst_blocks_both_ports :
    (currentPins { faulted with pins := [resetting] }).rst = true ∧
    { faulted with pins := [resetting] }.beforeFirstReset = false ∧ (currentPins poweredUp).rst = true := by decide

theorem witness_Only_reset_leaves_FAULTED_abandoned :
    (currentPins { waiting 3 plain with pins := [resetting] }).rst = true ∧
    (∀ j, 1 ≤ j → (pinsAt { waiting 3 plain with pins := [resetting] } j).reqValid = false) ∧
    ∃ u, edges 2 { waiting 3 plain with pins := [resetting] } = .next u := by
  refine ⟨by decide, fun j hj => by rw [pinsAt_past_one _ resetting rfl j hj]; rfl,
    { waiting 3 plain with txn := none, freeIndex := 2 }, ?_⟩
  rw [edges_succ 1 (t := { waiting 3 plain with txn := none, freeIndex := 1 }) (next_of_after (by decide)),
    edges_succ 0 (t := { waiting 3 plain with txn := none, freeIndex := 2 }) (next_of_after (by decide)), edges_zero]

theorem witness_Only_reset_leaves_FAULTED :
    ∃ t, { faulted with pins := [resetting] }.beforeFirstReset = false ∧ step { faulted with pins := [resetting] } = .next t ∧
      statusFaulted faulted.status = true ∧ statusFaulted t.status = false :=
  ⟨{ faulted with status := 0x00, txn := none, freeIndex := 1 }, rfl, next_of_after (by decide), by decide, by decide⟩

theorem witness_Every_edge_keeps_the_invariant :
    (Inv (waiting 3 plain) ∧ ∃ t, step (waiting 3 plain) = .next t) ∧ (Inv faulted ∧ ∃ t, step faulted = .next t) :=
  ⟨⟨waiting_meets_the_invariant, { waiting 2 plain with freeIndex := 1 }, next_of_after (by decide)⟩,
    faulted_meets_the_invariant, { faulted with txn := none, freeIndex := 1 }, next_of_after (by decide)⟩

theorem witness_A_legal_state_always_has_a_next_state : Inv (offered 0x0B MIN 0) ∧ Inv (waiting 3 plain) ∧ Inv faulted :=
  ⟨offered_meets_the_invariant _ _ _, waiting_meets_the_invariant, faulted_meets_the_invariant⟩

/-- I8, I9: the least STATUS values of each kind, and the greatest that is not refused. -/
theorem witness_Step_refuses_only_a_STATUS_never_produced :
    refusedStatus 0x20 = some .reservedStatusBits ∧ refusedStatus 0x08 = some .reservedCauseCode ∧
    refusedStatus 0x07 = none ∧ { State.reset with status := 0x20 }.beforeFirstReset = false ∧
    (currentPins { State.reset with status := 0x20 }).rst = false := by decide

theorem witness_An_edge_keeps_the_parameters : ∃ t, step (waiting 1 faulty) = .next t :=
  ⟨{ faulted with freeIndex := 1 }, next_of_after (by decide)⟩

theorem witness_A_request_not_accepted_has_no_effect :
    (offer ⟨0x08, 1, 2⟩).rst = (offer ⟨0x10, 3, 4⟩).rst ∧
    accepts { waiting 3 plain with pins := offer ⟨0x08, 1, 2⟩ :: [] } = false ∧
    accepts { waiting 3 plain with pins := offer ⟨0x10, 3, 4⟩ :: [] } = false := by decide

theorem witness_A_busy_block_accepts_nothing :
    (waiting 3 plain).beforeFirstReset = false ∧ (waiting 3 plain).txn = some ⟨2 + 1, plain⟩ ∧ (currentPins (waiting 3 plain)).rst = false ∧
    refusedStatus (waiting 3 plain).status = none := by decide

theorem witness_The_response_comes_in_cycle_LAT_minus_one_at_once :
    Inv (offered 0x0D 1 1) ∧ accepts (offered 0x0D 1 1) = true ∧
    (∀ i, decode (currentPins (offered 0x0D 1 1)).request = .ok i → OpClass.misc = i.opClass) ∧
    ((∃ e, decode (currentPins (offered 0x0D 1 1)).request = .error e) → OpClass.misc = .misc) ∧
    1 = (offered 0x0D 1 1).config.latency .misc ∧
    (∀ j, 1 ≤ j → j ≤ 1 → (pinsAt (offered 0x0D 1 1) j).rst = false) := by
  have hd : decode (currentPins (offered 0x0D 1 1)).request = .error .unassignedOpcode := by decide
  refine ⟨offered_meets_the_invariant _ _ _, by decide, fun i h => ?_, fun _ => rfl, by decide, fun j hj _ => ?_⟩
  · rw [hd] at h; cases h
  · rw [pinsAt_past_one _ (offer ⟨0x0D, 1, 1⟩) rfl j hj]; rfl

theorem witness_The_response_comes_in_cycle_LAT_minus_one_later :
    Inv { offered 0x10 2 3 with config := slow } ∧ accepts { offered 0x10 2 3 with config := slow } = true ∧
    (∀ i, decode (currentPins { offered 0x10 2 3 with config := slow }).request = .ok i → OpClass.mul = i.opClass) ∧
    ((∃ e, decode (currentPins { offered 0x10 2 3 with config := slow }).request = .error e) → OpClass.mul = .misc) ∧
    4 = slow.latency .mul ∧
    (∀ j, 1 ≤ j → j ≤ 4 → (pinsAt { offered 0x10 2 3 with config := slow } j).rst = false) := by
  have hd : decode (currentPins { offered 0x10 2 3 with config := slow }).request = .ok (.mul 2 3) := by decide
  refine ⟨inv_of_txn_none rfl (by unfold LegalStatus; decide) (by decide) rfl, by decide, fun i h => ?_, fun h => ?_, by decide,
    fun j hj _ => ?_⟩
  · rw [hd] at h; cases h; rfl
  · obtain ⟨e, h⟩ := h; rw [hd] at h; cases h
  · rw [pinsAt_past_one _ (offer ⟨0x10, 2, 3⟩) rfl j hj]; rfl

theorem witness_A_response_lasts_one_cycle :
    (waiting 0 plain).beforeFirstReset = false ∧
    ((outputs (waiting 0 plain)).rspValid = true ∧ (∃ t, step (waiting 0 plain) = .next t) ∧
      accepts (waiting 0 plain) = false) ∧
    ((outputs { waiting 0 plain with pins := [offer ⟨0x08, 1, 2⟩] }).rspValid = true ∧
      (∃ t, step { waiting 0 plain with pins := [offer ⟨0x08, 1, 2⟩] } = .next t) ∧
      accepts { waiting 0 plain with pins := [offer ⟨0x08, 1, 2⟩] } = true ∧
      decode (currentPins { waiting 0 plain with pins := [offer ⟨0x08, 1, 2⟩] }).request = .ok (.add 1 2)) :=
  ⟨rfl, ⟨by simp [outputs]; decide, ⟨{ waiting 0 plain with txn := none, freeIndex := 1 }, next_of_after (by decide)⟩, by decide⟩,
    by simp [outputs]; decide, ⟨{ waiting 0 ⟨3, 0, false, false, 0⟩ with freeIndex := 1 }, next_of_after (by decide)⟩,
    by decide, by decide⟩

theorem witness_The_answer_depends_on_the_request_alone :
    (∃ s' u', exec (.mul 2 3) State.reset = .next s' ∧ exec (.mul 2 3) (waiting 0 plain) = .next u') ∧
    (∃ s' u', exec (.abs MIN) State.reset = .next s' ∧ exec (.abs MIN) (waiting 0 plain) = .next u') :=
  ⟨⟨_, _, rfl, rfl⟩, ⟨_, _, exec_abs_MIN _, exec_abs_MIN _⟩⟩

theorem witness_Instructions_leave_everything_else_unchanged :
    (∃ t, exec (.add 1 2) State.reset = .next t) ∧ (∃ t, exec (.abs MIN) State.reset = .next t ∧ t.status ≠ 0x00) :=
  ⟨⟨_, rfl⟩, _, exec_abs_MIN _, by decide⟩

theorem witness_Only_comparisons_set_F_and_only_division_sets_Y2 :
    (∃ t, exec (.eq 5 5) State.reset = .next t ∧ t.txn = some ⟨0, ⟨1, 0, true, false, 0⟩⟩) ∧
    (∃ t, exec (.div 5 0) State.reset = .next t ∧ t.txn = some ⟨0, ⟨0, 5, false, false, 0⟩⟩) :=
  ⟨⟨answered .cmp 1 0 true State.reset, rfl, by decide⟩, answered .div 0 5 false State.reset, rfl, by decide⟩

theorem witness_A_reserved_command_faults_with_cause_2 :
    ((offered 0x20 1 1).beforeFirstReset = false ∧ refusedStatus (offered 0x20 1 1).status = none ∧ accepts (offered 0x20 1 1) = true ∧
      0x20 ≤ (currentPins (offered 0x20 1 1)).reqCmd.toNat) ∧
    ((offered 0x1F 1 1).beforeFirstReset = false ∧ refusedStatus (offered 0x1F 1 1).status = none ∧ accepts (offered 0x1F 1 1) = true ∧
      (currentPins (offered 0x1F 1 1)).reqCmd.toNat ∈
        [0x0D, 0x0E, 0x0F, 0x13, 0x14, 0x15, 0x16, 0x17, 0x1E, 0x1F]) := by decide

theorem witness_Only_ABS_of_MIN_faults :
    (∃ t w r, exec (.abs 5) State.reset = .next t ∧ t.txn = some ⟨w, r⟩ ∧ r.err = false) ∧
    (∃ t w r, exec (.abs MIN) State.reset = .next t ∧ t.txn = some ⟨w, r⟩ ∧ r.err = true) :=
  ⟨⟨answered .add 5 0 false State.reset, 0, ⟨5, 0, false, false, 0⟩, rfl, by decide, rfl⟩,
    ⟨_, _, _, exec_abs_MIN _, launch_txn _ _ _, rfl⟩⟩

theorem witness_Fault_entry_writes_STATUS :
    ∃ t, step (waiting 1 faulty) = .next t ∧ t.txn = some ⟨0, faulty⟩ ∧ faulty.err = true ∧ (currentPins t).rst = false :=
  ⟨{ faulted with freeIndex := 1 }, next_of_after (by decide), by decide, by decide, by decide⟩

theorem witness_A_FAULTED_block_is_stuck_until_reset :
    Inv faulted ∧ statusFaulted faulted.status = true ∧ (∀ j, j < 3 → (pinsAt faulted j).rst = false) :=
  ⟨faulted_meets_the_invariant, by decide, by decide⟩

theorem witness_STATUS_changes_only_at_a_fault_and_at_reset :
    (faulted.beforeFirstReset = false ∧ (waiting 1 faulty).beforeFirstReset = false) ∧
    (∃ t, step { faulted with pins := [resetting] } = .next t ∧ t.status ≠ faulted.status) ∧
    (∃ t, step (waiting 1 faulty) = .next t ∧ t.status ≠ (waiting 1 faulty).status) :=
  ⟨⟨rfl, rfl⟩, ⟨{ faulted with status := 0x00, txn := none, freeIndex := 1 }, next_of_after (by decide), by decide⟩,
    { faulted with freeIndex := 1 }, next_of_after (by decide), by decide⟩

theorem witness_The_fault_line_follows_FAULTED :
    (faulted.beforeFirstReset = false ∧ (waiting 1 faulty).beforeFirstReset = false) ∧
    (∃ t, step (waiting 1 faulty) = .next t ∧ (outputs (waiting 1 faulty)).faultIrq = false ∧ (outputs t).faultIrq = true) ∧
    (∃ t, step { faulted with pins := [resetting] } = .next t ∧
      (outputs { faulted with pins := [resetting] }).faultIrq = true ∧ (outputs t).faultIrq = false) :=
  ⟨⟨rfl, rfl⟩, ⟨{ faulted with freeIndex := 1 }, next_of_after (by decide), by simp [outputs]; decide, by simp [outputs]; decide⟩,
    { faulted with status := 0x00, txn := none, freeIndex := 1 }, next_of_after (by decide), by simp [outputs]; decide,
    by simp [outputs]; decide⟩

theorem witness_No_request_raises_SHIFT_HELPER_RANGE :
    ∃ t w r, exec (.div 7 0) State.reset = .next t ∧ t.txn = some ⟨w, r⟩ :=
  ⟨answered .div 0 7 false State.reset, 0, ⟨0, 7, false, false, 0⟩, rfl, by decide⟩

theorem witness_A_value_denotes_the_integer_of_its_words :
    MIN.toInt = -(2 ^ 127) ∧ MAX.toInt = 2 ^ 127 - 1 := by decide

theorem witness_ABS_is_the_magnitude_or_a_fault :
    (words 0x8000000000000000 1).toInt ≠ -(2 ^ 127) ∧ MIN.toInt = -(2 ^ 127) := by decide

theorem witness_Quotient_times_divisor_plus_remainder : (1 : Word128) ≠ 0 ∧ MIN ≠ 0 := by decide

theorem witness_The_engine_divides_magnitudes :
    (MAX.toNat < 2 ^ 127 ∧ 1 ≤ (1 : Word128).toNat ∧ (1 : Word128).toNat < 2 ^ 127) ∧
    ((0 : Word128).toNat < 2 ^ 127 ∧ 1 ≤ MAX.toNat ∧ MAX.toNat < 2 ^ 127) := by decide

theorem witness_HIGHBIT_is_the_least_power_above :
    MAX.toNat < 2 ^ 127 ∧ (0 : Word128).toNat < 2 ^ 0 ∧ NEG_ONE.toNat < 2 ^ 128 := by decide

theorem witness_Equivalent_forms_of_the_engine : MAX.toNat < 2 ^ 127 ∧ 1 ≤ (1 : Word128).toNat := by decide

theorem witness_SRA_shifts_right_or_answers_zero :
    (127 : Word128).toNat < 128 ∧ 128 ≤ (128 : Word128).toNat ∧ 128 ≤ NEG_ONE.toNat := by decide

theorem witness_SLL_shifts_left_below_bit_127 :
    NEG_ONE.toInt < 0 ∧ 128 ≤ (128 : Word128).toNat ∧ 0 ≤ MAX.toInt ∧ (127 : Word128).toNat < 128 ∧
    (0 : Word128).toNat < 128 := by decide

theorem witness_Before_the_first_reset_every_output_is_free :
    (poweredUp.beforeFirstReset = true ∧ ∃ t, step poweredUp = .next t) ∧
    ({ poweredUp with pins := [] }.beforeFirstReset = true ∧ (currentPins { poweredUp with pins := [] }).rst = false ∧
      ∃ t, step { poweredUp with pins := [] } = .next t) :=
  ⟨⟨rfl, _, step_of_rst _ rfl⟩, rfl, by decide, step_next _ (.inr (.inl rfl))⟩

end Sys2Proof.Tests
end

section
/-! What an edge leaves alone: the parameters, and the two fields that only `advance` moves on. -/

namespace Sys2Proof.Machine

@[simp] theorem tick_config (s : State) : (tick s).config = s.config := by
  obtain ⟨-, e⟩ | ⟨r, -, e⟩ | ⟨w, r, -, e⟩ := tick_cases s <;> simp [e]

@[simp] theorem tick_pins (s : State) : (tick s).pins = s.pins := by
  obtain ⟨-, e⟩ | ⟨r, -, e⟩ | ⟨w, r, -, e⟩ := tick_cases s <;> simp [e]

@[simp] theorem tick_freeIndex (s : State) : (tick s).freeIndex = s.freeIndex := by
  obtain ⟨-, e⟩ | ⟨r, -, e⟩ | ⟨w, r, -, e⟩ := tick_cases s <;> simp [e]

/-- Settles O16: every kind of edge acts on the advanced state, and none of them writes the three fields again. -/
theorem anEdgeKeepsTheParameters : Obligations.An_edge_keeps_the_parameters := by
  intro s t h
  obtain ⟨-, rfl⟩ | ⟨-, -, rfl⟩ | ⟨-, -, -, -, c, r, rfl, -⟩ | ⟨-, -, -, -, rfl⟩ := step_cases h
  case inl => exact ⟨applyReset_config _, applyReset_pins _, applyReset_freeIndex _⟩
  case inr.inl => exact ⟨powerUpEdge_config _, powerUpEdge_pins _, powerUpEdge_freeIndex _⟩
  case inr.inr.inl => exact ⟨launch_config _ c r, launch_pins _ c r, launch_freeIndex _ c r⟩
  case inr.inr.inr => exact ⟨tick_config _, tick_pins _, tick_freeIndex _⟩

end Sys2Proof.Machine
end

section
/-! The invariant: which operations on the state keep it, and the settlement of its base case and of its step. -/

namespace Sys2Proof.Machine

/-! ### What the invariant says of the state -/

theorem one_le_latency {k : Config} (h : k.wellFormed = true) (c : OpClass) : 1 ≤ k.latency c := by
  simp only [Config.wellFormed, Bool.and_eq_true, decide_eq_true_eq] at h
  cases c <;> simp only [Config.latency] <;> omega

theorem legalStatus_zero : LegalStatus 0x00 := by unfold LegalStatus; decide

/-- STATUS of a fault whose response is legal is legal (R120, R701). -/
theorem legalStatus_faultStatus {r : Response} (h : LegalResponse r) (he : r.err = true) :
    LegalStatus (faultStatus r.cause) := by
  have hc : r.cause = 1 ∨ r.cause = 2 := by simpa [LegalResponse, he] using h
  exact ⟨statusReserved_faultStatus _, .inr ⟨statusFaulted_faultStatus _, by simpa using hc⟩⟩

theorem statusFaulted_of_blockReady {s : State} (h : blockReady s = true) : statusFaulted s.status = false := by
  simp only [blockReady, Bool.and_eq_true, Bool.not_eq_true'] at h; exact h.1

/-- A transaction before its response cycle is in progress only in a block that is not FAULTED (log entry 1). -/
theorem Inv.statusFaulted_of_waiting {s : State} {w : Nat} {r : Response} (h : Inv s) (ht : s.txn = some ⟨w + 1, r⟩) :
    statusFaulted s.status = false := by
  rw [← Bool.not_eq_true]
  intro hf
  exact absurd (h.faulted _ ht hf).1 (Nat.succ_ne_zero w)

/-! ### Operations that keep it -/

theorem Inv.advance {s : State} (h : Inv s) : Inv (advance s) :=
  ⟨h.reset, h.status, h.config, h.response, h.wait, h.faulted, h.cause⟩

theorem Inv.withoutTxn {s : State} (h : Inv s) : Inv { s with txn := none } :=
  ⟨h.reset, h.status, h.config, nofun, nofun, nofun, nofun⟩

/-- Reset establishes the invariant from every state with well-formed parameters (R801). -/
theorem inv_applyReset {s : State} (h : s.config.wellFormed = true) : Inv (applyReset s) :=
  ⟨rfl, legalStatus_zero, h, nofun, nofun, nofun, nofun⟩

/-- A block that is not FAULTED may come to any transaction with a legal response inside some latency: if that is the
response cycle of a fault, STATUS is written with its cause, and else stays as it was. -/
theorem Inv.arrive {s : State} {x : Transaction} (h : Inv s) (hf : statusFaulted s.status = false)
    (hr : LegalResponse x.response) (hw : ∃ c, x.wait < s.config.latency c) : Inv (arrive x s) := by
  refine ⟨by simpa using h.reset, ?_, by simpa using h.config, ?_, ?_, ?_, ?_⟩
  case refine_1 =>
    rw [arrive_status]
    split
    next hx => exact legalStatus_faultStatus hr hx.2
    next => exact h.status
  all_goals intro y hy; obtain rfl : x = y := by simpa using hy
  · exact hr
  · simpa using hw
  · intro hft
    by_contra hx
    rw [arrive_status, if_neg hx, hf] at hft
    cases hft
  · intro h0 he
    rw [arrive_status, if_pos ⟨h0, he⟩]

theorem Inv.launch {s : State} {c : OpClass} {r : Response} (h : Inv s) (hf : statusFaulted s.status = false)
    (hr : LegalResponse r) : Inv (launch c r s) :=
  h.arrive hf hr ⟨c, Nat.sub_lt (one_le_latency h.config c) Nat.one_pos⟩

/-- An edge that accepts nothing ends a response cycle or brings a transaction nearer to one. -/
theorem Inv.tick {s : State} (h : Inv s) : Inv (tick s) := by
  obtain ⟨-, e⟩ | ⟨r, -, e⟩ | ⟨w, r, ht, e⟩ := tick_cases s <;> rw [e]
  · exact h
  · exact h.withoutTxn
  · obtain ⟨c, hc⟩ := h.wait _ ht
    exact h.arrive (h.statusFaulted_of_waiting ht) (h.response ⟨w + 1, r⟩ ht) ⟨c, Nat.lt_of_succ_lt hc⟩

/-- Settles O12: the reset state is what reset makes of itself. -/
theorem resetStateMeetsTheInvariant : Obligations.Reset_state_meets_the_invariant :=
  inv_applyReset (s := State.reset) (by decide)

/-- Settles O13: by the kinds of edges; only a block that is not FAULTED accepts a request. -/
theorem everyEdgeKeepsTheInvariant : Obligations.Every_edge_keeps_the_invariant := by
  intro s t h hs
  obtain ⟨-, rfl⟩ | ⟨-, hb, -⟩ | ⟨-, hb, -, ha, c, r, rfl, hr⟩ | ⟨-, -, -, -, rfl⟩ := step_cases hs
  case inl => exact inv_applyReset h.config
  case inr.inl => rw [h.reset] at hb; cases hb
  case inr.inr.inl => exact h.advance.launch (statusFaulted_of_blockReady (blockReady_of_accepts s hb ha)) hr
  case inr.inr.inr => exact h.advance.tick

end Sys2Proof.Machine
end

section
/-! The ports of the idle block after reset, the response cycle, and the writes of STATUS. -/

namespace Sys2Proof.Machine

theorem blockReady_of_txn_none {s : State} (hf : statusFaulted s.status = false) (h : s.txn = none) :
    blockReady s = true := by simp [blockReady, hf, h]

/-- R800, R802, R811: when a response is presented. -/
theorem presented_eq_some_iff {s : State} {r : Response} :
    presented s = some r ↔ s.beforeFirstReset = false ∧ (currentPins s).rst = false ∧ s.txn = some ⟨0, r⟩ := by
  unfold presented
  cases s.beforeFirstReset
  case true => simp
  cases (currentPins s).rst
  case true => simp
  rcases s.txn with _ | ⟨_ | w, r'⟩ <;> simp

theorem presented_of_txn_none {s : State} (h : s.txn = none) : presented s = none := by
  simp [Option.eq_none_iff_forall_ne_some, presented_eq_some_iff, h]

theorem rspValid_of_txn_none {s : State} (hb : s.beforeFirstReset = false) (h : s.txn = none) : rspValid s = false := by
  rw [rspValid_of_reset s hb, presented_of_txn_none h, Option.isSome_none]

/-- Settles O9: STATUS 0x00 is not FAULTED and has cause 0, and no transaction holds the ports. -/
theorem resetStateIsIdleAndReady : Obligations.Reset_state_is_idle_and_ready := by
  refine ⟨rfl, rfl, fun s hb hst ht hr => ?_⟩
  have hf : statusFaulted s.status = false := by rw [hst]; rfl
  refine ⟨(stStatus_of_reset s hb).trans hst, (faultIrq_of_reset s hb).trans hf, by rw [hst]; rfl,
    rspValid_of_txn_none hb ht, ?_⟩
  show reqReady s = true
  rw [reqReady_of_reset s hb, hr, blockReady_of_txn_none hf ht]; rfl

/-- Settles O20: an accepting edge is the execution of the request, and any other one ends the response cycle. -/
theorem aResponseLastsOneCycle : Obligations.A_response_lasts_one_cycle := by
  intro s t hb hv hs
  obtain ⟨r, hp⟩ := Option.isSome_iff_exists.1 ((rspValid_of_reset s hb).symm.trans hv)
  obtain ⟨-, hr, ht⟩ := presented_eq_some_iff.1 hp
  obtain ⟨hr', -⟩ | ⟨-, hb', -⟩ | ⟨-, -, hn, ha, -⟩ | ⟨-, -, -, ha, rfl⟩ := step_cases hs
  case inl => rw [hr] at hr'; cases hr'
  case inr.inl => rw [hb] at hb'; cases hb'
  case inr.inr.inl =>
    refine ⟨fun hna => ?_, fun _ i hd => ⟨t, (step_of_accepts s i hb hn ha hd).symm.trans hs, rfl⟩⟩
    rw [ha] at hna; cases hna
  case inr.inr.inr =>
    refine ⟨fun _ => ?_, fun hya => ?_⟩
    · rw [tick_of_presented (advance s) r ht]; exact ⟨rfl, rspValid_of_txn_none hb rfl⟩
    · rw [ha] at hya; cases hya

/-- The one write of STATUS in the progress of a transaction is fault entry (R710). -/
theorem faultEntry_of_arrive_status_ne {s : State} {x : Transaction} (h : (arrive x s).status ≠ s.status) :
    ∃ r, (arrive x s).txn = some ⟨0, r⟩ ∧ r.err = true ∧ (arrive x s).status = faultStatus r.cause := by
  obtain ⟨w, r⟩ := x
  by_cases hx : w = 0 ∧ r.err = true
  · obtain ⟨rfl, he⟩ := hx
    exact ⟨r, arrive_txn _ s, he, by rw [arrive_status, if_pos ⟨rfl, he⟩]⟩
  · exact absurd (by rw [arrive_status, if_neg hx]) h

/-- Settles O29: after the first reset only reset and the progress of a transaction write STATUS. -/
theorem statusChangesOnlyAtAFaultAndAtReset : Obligations.STATUS_changes_only_at_a_fault_and_at_reset := by
  intro s t hb hs hne
  obtain ⟨hr, rfl⟩ | ⟨-, hb', -⟩ | ⟨-, -, -, -, c, r, rfl, -⟩ | ⟨-, -, -, -, rfl⟩ := step_cases hs
  case inl => exact .inl ⟨hr, applyReset_status _⟩
  case inr.inl => rw [hb] at hb'; cases hb'
  case inr.inr.inl => exact .inr (faultEntry_of_arrive_status_ne (s := advance s) hne)
  case inr.inr.inr =>
    obtain ⟨-, e⟩ | ⟨r, -, e⟩ | ⟨w, r, -, e⟩ := tick_cases (advance s) <;> rw [e] at hne ⊢
    · exact absurd rfl hne
    · exact absurd rfl hne
    · exact .inr (faultEntry_of_arrive_status_ne (s := advance s) hne)

end Sys2Proof.Machine
end

section
/-! What an answer may hold (R113), and the integer that a value denotes (R101, R102). -/

namespace Sys2Proof.Machine

theorem mnemonic_mem_of_opClass_cmp {i : Instr} (h : i.opClass = .cmp) :
    i.mnemonic ∈ ["EQ", "NE", "LT", "LE", "GT", "GE", "TRUTH", "LNOT"] := by
  cases i <;> simp [Instr.opClass, Instr.mnemonic] at h ⊢

theorem mnemonic_mem_of_opClass_div {i : Instr} (h : i.opClass = .div) : i.mnemonic ∈ ["DIV", "REM"] := by
  cases i <;> simp [Instr.opClass, Instr.mnemonic] at h ⊢

/-- Settles O23: F and Y2 of a fault-free answer are told by the class, and the one fault is that of ABS of MIN. -/
theorem onlyComparisonsSetFAndOnlyDivisionSetsY2 :
    Obligations.Only_comparisons_set_F_and_only_division_sets_Y2 := by
  intro i s t w r hs ht he
  by_cases hi : i = .abs MIN
  · subst hi
    rw [exec_abs_MIN] at hs; cases hs
    rw [launch_txn] at ht; cases ht
    cases he
  · obtain ⟨y, y2, f, hx, hf, hy2⟩ := exec_answered i hi s
    rw [hx] at hs; cases hs
    cases ht
    refine ⟨fun h1 => mnemonic_mem_of_opClass_cmp (not_not.1 fun hc => ?_),
      fun h1 => mnemonic_mem_of_opClass_div (not_not.1 fun hc => h1 (hy2 hc))⟩
    exact Bool.false_ne_true ((hf hc).symm.trans h1)

/-- R101: the integer of a value from its words. -/
theorem toInt_eq_words (v : Word128) : v.toInt = (hi v).toInt * 2 ^ 64 + ((lo v).toNat : Int) := by
  have := v.isLt
  rw [BitVec.toInt_eq_toNat_cond, BitVec.toInt_eq_toNat_cond, toNat_hi, toNat_lo]
  split <;> split <;> omega

/-- R102: a value is negative exactly when its high word is, whose weight no low word reaches. -/
theorem toInt_neg_iff_hi (v : Word128) : v.toInt < 0 ↔ (hi v).toInt < 0 := by
  have := (lo v).isLt
  rw [toInt_eq_words]
  omega

theorem toInt_neg_iff_bit127 (v : Word128) : v.toInt < 0 ↔ v.getLsbD 127 = true := by
  show v.toInt < 0 ↔ v.msb = true
  rw [BitVec.msb_eq_toInt, decide_eq_true_iff]

/-- Settles O35: the range is that of a 128-bit pattern, on which `toInt` is injective. -/
theorem aValueDenotesTheIntegerOfItsWords : Obligations.A_value_denotes_the_integer_of_its_words := by
  refine ⟨fun v => ⟨toInt_eq_words v, BitVec.le_toInt v, Int.le_sub_one_of_lt (BitVec.toInt_lt (x := v)),
    toInt_neg_iff_hi v, toInt_neg_iff_bit127 v, ?_⟩, fun n h0 h1 => ?_⟩
  · rw [isNegative_eq_msb, toInt_neg_iff_bit127]; rfl
  · have hn : (BitVec.ofInt 128 n).toInt = n := BitVec.toInt_ofInt_eq_self (by decide) h0 (by omega)
    exact ⟨BitVec.ofInt 128 n, hn, fun w hw => BitVec.eq_of_toInt_eq (hw.trans hn.symm)⟩

end Sys2Proof.Machine
end

section
/-! The magnitude product: each datapath of spec/42_multiply.md gives the product of the 128-bit patterns, so that no
result tells which one is built in (R505). -/

namespace Sys2Proof.Machine

/-! ### `booth`: a set bit's multiple is lacking until the bit above it has been read -/

/-- The multiple selected at bit 0, below which there is no bit (R504). -/
theorem boothTerm_zero (x y : Word128) : boothTerm x y 0 = 0 - (if y.getLsbD 0 then x else 0) := by
  rw [boothTerm, if_pos rfl]
  cases y.getLsbD 0 <;> simp

/-- The multiple selected at a bit above bit 0, as the difference of the multiples for the bit below it and for the bit
itself (R504). -/
theorem boothTerm_succ (x y : Word128) (n : Nat) :
    boothTerm x y (n + 1) =
      (if y.getLsbD n then x <<< (n + 1) else 0) - (if y.getLsbD (n + 1) then x <<< (n + 1) else 0) := by
  rw [boothTerm, if_neg n.succ_ne_zero, Nat.add_sub_cancel]
  cases y.getLsbD n <;> cases y.getLsbD (n + 1) <;> simp

theorem shiftLeft_succ_eq_add (x : Word128) (n : Nat) : x <<< (n + 1) = x <<< n + x <<< n := by
  rw [BitVec.shiftLeft_add, BitVec.shiftLeft_eq_mul_twoPow (n := 1)]
  exact mul_two _

/-- The sum over bits n to 0 is the shift-and-add product over them, but for what bit n still has to add one place higher. -/
theorem boothSum_succ_add (x y : Word128) (n : Nat) :
    boothSum x y (n + 1) + (if y.getLsbD n then x <<< (n + 1) else 0) = BitVec.mulRec x y n := by
  induction n with
  | zero =>
    have hx : x <<< 1 = x + x := by simpa using shiftLeft_succ_eq_add x 0
    rw [BitVec.mulRec_zero_eq, boothSum, boothSum, boothTerm_zero, hx]
    cases y.getLsbD 0 <;> simp
  | succ n ih =>
    rw [BitVec.mulRec_succ_eq, ← ih, boothSum, boothTerm_succ, shiftLeft_succ_eq_add x (n + 1)]
    by_cases h : y.getLsbD (n + 1) = true
    · simp only [if_pos h]; abel
    · simp only [if_neg h]; abel

theorem umulBooth_eq (x y : Word128) : umulBooth x y = x * y := by
  have h := boothSum_succ_add x y 127
  rw [BitVec.mulRec_eq_mul_signExtend_setWidth] at h
  simpa [umulBooth] using h

/-! ### `schoolbook32`: the carries between the columns telescope -/

theorem limb_eq (v : Word128) (i : Nat) : limb v i = v.toNat / 2 ^ (32 * i) % 2 ^ 32 := by
  rw [limb, BitVec.extractLsb'_toNat, Nat.shiftRight_eq_div_pow]

/-- A value is the sum of its limbs by weight (R503). -/
theorem toNat_eq_limbs (v : Word128) :
    v.toNat = limb v 0 + limb v 1 * 2 ^ 32 + limb v 2 * 2 ^ 64 + limb v 3 * 2 ^ 96 := by
  have := v.isLt
  simp only [limb_eq]
  omega

/-- The limb products of weight 2^(32k), whole. -/
def productColumn (x y : Word128) (k : Nat) : Nat := sumOver (fun i j => limb x i * limb y j) k

/-- The low halves of a column's products stay in it, and the high halves go to the next one (R503). -/
theorem productColumn_eq_halves (x y : Word128) (k : Nat) :
    productColumn x y k = sumOver (fun i j => limb x i * limb y j % 2 ^ 32) k +
      2 ^ 32 * sumOver (fun i j => limb x i * limb y j / 2 ^ 32) k := by
  simp only [productColumn, sumOver, ← List.sum_map_mul_left, ← List.sum_map_add, Nat.mod_add_div]

/-- The product is the sum of its columns by weight, and those from column 4 on have no part below 2^128. -/
theorem toNat_mul_eq_columns (x y : Word128) :
    (x * y).toNat = (productColumn x y 0 + productColumn x y 1 * 2 ^ 32 + productColumn x y 2 * 2 ^ 64 +
      productColumn x y 3 * 2 ^ 96) % 2 ^ 128 := by
  have h : x.toNat * y.toNat = productColumn x y 0 + productColumn x y 1 * 2 ^ 32 + productColumn x y 2 * 2 ^ 64 +
      productColumn x y 3 * 2 ^ 96 + 2 ^ 128 * ((limb x 1 * limb y 3 + limb x 2 * limb y 2 + limb x 3 * limb y 1) +
        (limb x 2 * limb y 3 + limb x 3 * limb y 2) * 2 ^ 32 + limb x 3 * limb y 3 * 2 ^ 64) := by
    rw [toNat_eq_limbs x, toNat_eq_limbs y]
    simp only [productColumn, sumOver, List.range_succ, List.range_zero, List.nil_append, List.cons_append, List.map_cons,
      List.map_nil, List.sum_cons, List.sum_nil]
    ring
  rw [BitVec.toNat_mul, h, Nat.add_mul_mod_self_left]

theorem umulSchoolbook_eq (x y : Word128) : umulSchoolbook x y = x * y := by
  apply BitVec.eq_of_toNat_eq
  rw [toNat_mul_eq_columns]
  simp only [productColumn_eq_halves, umulSchoolbook, limbColumn, BitVec.toNat_ofNat, Nat.reduceAdd]
  omega

/-! ### The three datapaths -/

theorem umulNative_eq (x y : Word128) : umulNative x y = x * y := by
  apply BitVec.eq_of_toNat_eq
  rw [umulNative, BitVec.toNat_ofNat, BitVec.toNat_mul]

/-- R501, R505: every datapath gives the product modulo 2^128. -/
theorem umul128_eq (m : MulImpl) (x y : Word128) : umul128 m x y = x * y := by
  cases m with
  | nativeWidening => exact umulNative_eq x y
  | schoolbook32 => exact umulSchoolbook_eq x y
  | booth => exact umulBooth_eq x y

theorem mul128_datapath_irrel (m m' : MulImpl) (a b : Word128) : mul128 m a b = mul128 m' a b := by
  simp only [mul128, umul128_eq]

end Sys2Proof.Machine
end

section
/-! A busy block, and what the answer to a request depends on. -/

namespace Sys2Proof.Machine

/-- R811: before the response cycle of its transaction the block accepts nothing. -/
theorem accepts_of_waiting {s : State} {w : Nat} {r : Response} (hb : s.beforeFirstReset = false)
    (ht : s.txn = some ⟨w + 1, r⟩) : accepts s = false := by
  have hn : blockReady s = false := by simp [blockReady, ht]
  rw [← Bool.not_eq_true]
  intro ha
  exact Bool.false_ne_true (hn.symm.trans (blockReady_of_accepts s hb ha))

/-- Settles O18: an edge that accepts nothing brings the transaction one edge nearer to its response. -/
theorem aBusyBlockAcceptsNothing : Obligations.A_busy_block_accepts_nothing := by
  intro s w r hb ht
  have ha := accepts_of_waiting hb ht
  refine ⟨ha, fun hr hn => ⟨tick (advance s), step_of_not_accepts s hb hr hn ha, ?_⟩⟩
  rw [tick_of_waiting (advance s) w r ht, arrive_txn]

/-- R121: the one response that an instruction without a fault gives, the same from every state. Only MUL reads the state
at all, for its datapath. -/
theorem exec_answered_from_every_state (i : Instr) (h : i ≠ .abs MIN) :
    ∃ y y2 f, ∀ s, exec i s = .next (answered i.opClass y y2 f s) := by
  cases i with
  | eq | ne | lt | le | gt | ge | truth | lnot => exact ⟨_, _, _, fun s => respondBool_eq s _⟩
  | add | sub | neg | sext64 | sra | sll | and | or | xor | not => exact ⟨_, _, _, fun s => respond_eq s _ _ _ _⟩
  | abs a =>
    have ha : a ≠ MIN := fun e => h (congrArg Instr.abs e)
    exact ⟨_, _, _, fun s => (if_neg ha).trans (respond_eq s _ _ _ _)⟩
  | mul a b =>
    refine ⟨mul128 .nativeWidening a b, 0, false, fun s => ?_⟩
    rw [mul128_datapath_irrel .nativeWidening s.config.mulImpl]
    exact respond_eq s _ _ _ _
  | div a b =>
    obtain ⟨⟨q, r⟩, hp⟩ := divmod128_total a b
    exact ⟨q, r, false, fun s => by simp only [exec, execDiv, hp]; exact respond_eq s _ _ _ _⟩
  | rem a b =>
    obtain ⟨⟨q, r⟩, hp⟩ := divmod128_total a b
    exact ⟨r, q, false, fun s => by simp only [exec, execRem, hp]; exact respond_eq s _ _ _ _⟩

/-- Settles O21: the fault of ABS of MIN has its err and cause in every state, and any other instruction its one response. -/
theorem theAnswerDependsOnTheRequestAlone : Obligations.The_answer_depends_on_the_request_alone := by
  intro i s u s' u' hs hu
  by_cases hi : i = .abs MIN
  · subst hi
    rw [exec_abs_MIN] at hs hu
    cases hs; cases hu
    exact ⟨_, _, _, _, launch_txn _ _ _, launch_txn _ _ _, rfl, rfl, nofun⟩
  · obtain ⟨y, y2, f, hx⟩ := exec_answered_from_every_state i hi
    rw [hx] at hs hu
    cases hs; cases hu
    exact ⟨_, _, _, _, rfl, rfl, rfl, rfl, fun _ => rfl⟩

end Sys2Proof.Machine
end

section
/-! The opcode map of R310 as a table: its commands and its mnemonics are distinct, so a row is found by either. -/

namespace Sys2Proof

/-- In a list whose keys are distinct, an element is found by its key. -/
theorem find?_key_of_mem {α κ : Type} [DecidableEq κ] {key : α → κ} {l : List α} (hd : (l.map key).Nodup) {x : α}
    (hx : x ∈ l) : l.find? (fun y => key y == key x) = some x := by
  have hs : (l.find? fun y => key y == key x).isSome := List.find?_isSome.2 ⟨x, hx, beq_self_eq_true (key x)⟩
  obtain ⟨y, hy⟩ := Option.isSome_iff_exists.1 hs
  have hk : key y = key x := eq_of_beq (List.find?_some (p := fun y => key y == key x) hy)
  rw [hy, List.inj_on_of_nodup_map hd (List.mem_of_find?_eq_some hy) hx hk]

theorem nodup_commands : (opcodeMap.map OpcodeRow.cmd).Nodup := by decide

theorem nodup_mnemonics : (opcodeMap.map OpcodeRow.mnemonic).Nodup := by decide

theorem find?_cmd_of_mem {row : OpcodeRow} (h : row ∈ opcodeMap) :
    opcodeMap.find? (fun row' => row'.cmd == row.cmd) = some row :=
  find?_key_of_mem nodup_commands h

theorem find?_mnemonic_of_mem {row : OpcodeRow} (h : row ∈ opcodeMap) :
    opcodeMap.find? (fun row' => row'.mnemonic == row.mnemonic) = some row :=
  find?_key_of_mem nodup_mnemonics h

/-- A request of a form with operands A and B as the encoder writes it: what the form ignores (R301) is 0 (R340). -/
def Form.carried : Form → Word128 → Word128 → Word128 × Word128
  | .rr, a, b | .rs, a, b => (a, b)
  | .r, a, _ => (a, 0)
  | .w64, a, _ => (zext128 (lo a), 0)

/-- The instruction that a row builds has the row's mnemonic. -/
theorem mnemonic_build {row : OpcodeRow} (h : row ∈ opcodeMap) (a b : Word128) :
    (row.build a b).mnemonic = row.mnemonic := by
  fin_cases h <;> rfl

/-- It carries the operands of the row's form. -/
theorem operands_build {row : OpcodeRow} (h : row ∈ opcodeMap) (a b : Word128) :
    (row.build a b).operands = row.form.carried a b := by
  fin_cases h <;> rfl

theorem mem_commands_iff (c : Command) :
    c ∈ opcodeMap.map OpcodeRow.cmd ↔
      c.toNat ≤ 0x0C ∨ c.toNat ∈ [0x10, 0x11, 0x12, 0x18, 0x19, 0x1A, 0x1B, 0x1C, 0x1D] := by
  have hc : opcodeMap.map OpcodeRow.cmd = [0x00, 0x01, 0x02, 0x03, 0x04, 0x05, 0x06, 0x07, 0x08, 0x09, 0x0A, 0x0B, 0x0C,
    0x10, 0x11, 0x12, 0x18, 0x19, 0x1A, 0x1B, 0x1C, 0x1D] := rfl
  simp only [hc, List.mem_cons, List.not_mem_nil, or_false, ← BitVec.toNat_inj, BitVec.ofNat_eq_ofNat,
    BitVec.toNat_ofNat]
  omega

/-- No command of the map is reserved (R320). -/
theorem wellFormed_of_mem : ∀ row ∈ opcodeMap, Command.wellFormed row.cmd = true := by decide

end Sys2Proof
end

section
/-! The decoder, said once through the rows of the map, and its round trips with the encoder (R310, R311). -/

namespace Sys2Proof

theorem decode_of_mem {row : OpcodeRow} {r : Request} (h : row ∈ opcodeMap) (hc : row.cmd = r.cmd) :
    decode r = .ok (row.build r.a r.b) := by
  unfold decode; rw [← hc, find?_cmd_of_mem h]

theorem decode_of_not_mem {r : Request} (h : r.cmd ∉ opcodeMap.map OpcodeRow.cmd) :
    decode r = if Command.rsvZero r.cmd then .error .unassignedOpcode else .error .reservedField := by
  have hn : opcodeMap.find? (fun row => row.cmd == r.cmd) = none :=
    List.find?_eq_none.2 fun row hm hc => h (eq_of_beq hc ▸ List.mem_map_of_mem hm)
  unfold decode; rw [hn]

/-- R311: a request is rejected exactly when its command is none of the map. -/
theorem decode_error_iff (r : Request) : (∃ e, decode r = .error e) ↔ r.cmd ∉ opcodeMap.map OpcodeRow.cmd := by
  refine ⟨fun ⟨e, he⟩ hm => ?_, fun h => ?_⟩
  · obtain ⟨row, hrow, hc⟩ := List.mem_map.1 hm
    rw [decode_of_mem hrow hc] at he; cases he
  · rw [decode_of_not_mem h]; split <;> exact ⟨_, rfl⟩

theorem row_of_decode_ok {r : Request} {i : Instr} (h : decode r = .ok i) :
    ∃ row ∈ opcodeMap, row.cmd = r.cmd ∧ i = row.build r.a r.b := by
  have hm : r.cmd ∈ opcodeMap.map OpcodeRow.cmd := by
    by_contra hn
    obtain ⟨e, he⟩ := (decode_error_iff r).2 hn
    rw [h] at he; cases he
  obtain ⟨row, hrow, hc⟩ := List.mem_map.1 hm
  rw [decode_of_mem hrow hc] at h; cases h
  exact ⟨row, hrow, hc, rfl⟩

theorem rowOfMap (i : Instr) : Laws.RowOfMap.Statement i := by
  cases i
  case eq a b => exact Laws.RowOfMap.eq a b
  case ne a b => exact Laws.RowOfMap.ne a b
  case lt a b => exact Laws.RowOfMap.lt a b
  case le a b => exact Laws.RowOfMap.le a b
  case gt a b => exact Laws.RowOfMap.gt a b
  case ge a b => exact Laws.RowOfMap.ge a b
  case truth a => exact Laws.RowOfMap.truth a
  case lnot a => exact Laws.RowOfMap.lnot a
  case add a b => exact Laws.RowOfMap.add a b
  case sub a b => exact Laws.RowOfMap.sub a b
  case neg a => exact Laws.RowOfMap.neg a
  case abs a => exact Laws.RowOfMap.abs a
  case sext64 v => exact Laws.RowOfMap.sext64 v
  case mul a b => exact Laws.RowOfMap.mul a b
  case div a b => exact Laws.RowOfMap.div a b
  case rem a b => exact Laws.RowOfMap.rem a b
  case sra a b => exact Laws.RowOfMap.sra a b
  case sll a b => exact Laws.RowOfMap.sll a b
  case and a b => exact Laws.RowOfMap.and a b
  case or a b => exact Laws.RowOfMap.or a b
  case xor a b => exact Laws.RowOfMap.xor a b
  case not a => exact Laws.RowOfMap.not a

/-- The row that the request of an instruction selects. -/
theorem row_of_encode (i : Instr) :
    ∃ row ∈ opcodeMap, row.cmd = (encode i).cmd ∧ row.build (encode i).a (encode i).b = i := by
  obtain ⟨row, hf, hr⟩ := Option.map_eq_some_iff.1 (rowOfMap i)
  have hc : row.cmd = i.command := eq_of_beq (List.find?_some (p := fun row => OpcodeRow.cmd row == i.command) hf)
  exact ⟨row, List.mem_of_find?_eq_some hf, hc, congrArg Prod.snd hr⟩

/-- The mnemonic names the row, so an instruction has the command word of the row with its mnemonic. -/
theorem command_of_mnemonic {row : OpcodeRow} {i : Instr} (h : row ∈ opcodeMap) (hm : i.mnemonic = row.mnemonic) :
    i.command = row.cmd := by
  obtain ⟨row', h', hc, hb⟩ := row_of_encode i
  have hm' : row'.mnemonic = row.mnemonic := by rw [← hm, ← hb, mnemonic_build h']
  rw [← List.inj_on_of_nodup_map nodup_mnemonics h' h hm', hc]; rfl

/-- The request of an instruction, by the entry of the map with its mnemonic. -/
theorem encode_of_entry {c : Command} {m : String} {i : Instr} (h : ∃ row ∈ opcodeMap, row.cmd = c ∧ row.mnemonic = m)
    (hm : i.mnemonic = m) : encode i = ⟨c, i.operands.1, i.operands.2⟩ := by
  obtain ⟨row, hrow, rfl, rfl⟩ := h
  rw [encode, command_of_mnemonic hrow hm]

/-- Settles O3: the request selects a row of the map, whose command is not reserved and which builds the instruction. -/
theorem decodeOfEncodeIsTheInstruction : Obligations.Decode_of_encode_is_the_instruction := by
  intro i
  obtain ⟨row, hm, hc, hb⟩ := row_of_encode i
  refine ⟨?_, by rw [decode_of_mem hm hc, hb]⟩
  rw [Request.wellFormed, ← hc]
  exact wellFormed_of_mem row hm

/-- Settles O2: the command alone selects the row, whose mnemonic every instruction it builds has. -/
theorem decodingReadsTheCommandAlone : Obligations.Decoding_reads_the_command_alone := by
  refine ⟨fun r r' hc => ⟨fun i hi => ?_, fun e he => ?_⟩, fun r => ?_⟩
  · obtain ⟨row, hm, hr, rfl⟩ := row_of_decode_ok hi
    refine ⟨_, decode_of_mem hm (hr.trans hc), ?_⟩
    rw [mnemonic_build hm, mnemonic_build hm]
  · have hn := (decode_error_iff r).1 ⟨e, he⟩
    rw [decode_of_not_mem hn] at he
    rw [decode_of_not_mem (hc ▸ hn), ← hc, he]
  · rw [decode_error_iff, mem_commands_iff]

/-- Settles O1: the rows of the map, one by one, and its commands. -/
theorem opcodeMapSelectsThe22Commands : Obligations.OpcodeMap_selects_the_22_commands := by
  refine ⟨fun a b => ?_, fun r ⟨i, hi⟩ => ?_⟩
  · have h : ∀ row ∈ opcodeMap, decode ⟨row.cmd, a, b⟩ = .ok (row.build a b) := fun row hm => decode_of_mem hm rfl
    simp only [opcodeMap, comparisonRows, additiveRows, mulDivRows, shiftBitwiseRows, List.cons_append, List.nil_append,
      List.forall_mem_cons, List.not_mem_nil, IsEmpty.forall_iff, implies_true, and_true] at h
    exact h
  · obtain ⟨row, hm, hc, -⟩ := row_of_decode_ok hi
    exact hc ▸ List.mem_map_of_mem (f := OpcodeRow.cmd) hm

/-! ### The operands that a form carries (R301) -/

theorem lo_carried (f : Form) (a b : Word128) : lo (f.carried a b).1 = lo a := by
  cases f
  case w64 => exact Machine.lo_words 0 (lo a)
  all_goals rfl

theorem carried_fst_of_ne_w64 {f : Form} (h : f ≠ .w64) (a b : Word128) : (f.carried a b).1 = a := by
  cases f
  case w64 => exact absurd rfl h
  all_goals rfl

theorem carried_snd_of_binary {f : Form} (h : f = .rr ∨ f = .rs) (a b : Word128) : (f.carried a b).2 = b := by
  obtain rfl | rfl := h <;> rfl

theorem form_ne_w64_of_mem :
    ∀ row ∈ opcodeMap, row.mnemonic ≠ "SEXT64" → row.form ≠ .w64 := by decide

theorem form_binary_of_mem : ∀ row ∈ opcodeMap,
    row.mnemonic ∉ ["TRUTH", "LNOT", "NEG", "ABS", "SEXT64", "NOT"] → row.form = .rr ∨ row.form = .rs := by decide

/-- Settles O4: the decoded instruction carries its row's command and the operands that the row's form reads. -/
theorem encodeOfDecodeIsTheRequestRead : Obligations.Encode_of_decode_is_the_request_read := by
  intro r i hi
  obtain ⟨row, hm, hc, rfl⟩ := row_of_decode_ok hi
  have hmn := mnemonic_build hm r.a r.b
  simp only [encode, hmn, command_of_mnemonic hm hmn, operands_build hm]
  exact ⟨hc, lo_carried _ _ _, fun h => carried_fst_of_ne_w64 (form_ne_w64_of_mem row hm h) _ _,
    fun h => carried_snd_of_binary (form_binary_of_mem row hm h) _ _⟩

end Sys2Proof
end

section
/-! Assembly (R340): which number of operands a form takes. -/

namespace Sys2Proof

/-- A binary or shift command takes two operands. -/
theorem assemble_binary {row : OpcodeRow} (h : row ∈ opcodeMap) (hf : row.form = .rr ∨ row.form = .rs) (a b : Word128) :
    assemble row.mnemonic a none = none ∧ assemble row.mnemonic a (some b) = some ⟨row.cmd, a, b⟩ := by
  unfold assemble; rw [find?_mnemonic_of_mem h]
  obtain hf | hf := hf <;> simp only [hf, and_self]

/-- A unary command takes one, and B is driven 0. -/
theorem assemble_unary {row : OpcodeRow} (h : row ∈ opcodeMap) (hf : row.form = .r ∨ row.form = .w64) (a b : Word128) :
    assemble row.mnemonic a (some b) = none ∧ assemble row.mnemonic a none = some ⟨row.cmd, a, 0⟩ := by
  unfold assemble; rw [find?_mnemonic_of_mem h]
  obtain hf | hf := hf <;> simp only [hf, and_self]

theorem exists_row_binary : ∀ m ∈ ["EQ", "NE", "LT", "LE", "GT", "GE", "ADD", "SUB", "MUL", "DIV", "REM", "SRA", "SLL",
    "AND", "OR", "XOR"], ∃ row ∈ opcodeMap, row.mnemonic = m ∧ (row.form = .rr ∨ row.form = .rs) := by decide

theorem exists_row_unary : ∀ m ∈ ["TRUTH", "LNOT", "NEG", "ABS", "SEXT64", "NOT"],
    ∃ row ∈ opcodeMap, row.mnemonic = m ∧ (row.form = .r ∨ row.form = .w64) := by decide

/-- Settles O5: the mnemonic finds its row, the row's form the number of operands, and the row's command the same row. -/
theorem assemblerDrivesZeroForAnOmittedOperand : Obligations.Assembler_drives_zero_for_an_omitted_operand := by
  refine fun a b => ⟨fun m hm => ?_, fun m hm => ?_⟩
  · obtain ⟨row, hrow, rfl, hf⟩ := exists_row_binary m hm
    obtain ⟨hnone, hsome⟩ := assemble_binary hrow hf a b
    exact ⟨hnone, _, _, hsome, rfl, rfl, decode_of_mem hrow rfl, mnemonic_build hrow _ _⟩
  · obtain ⟨row, hrow, rfl, hf⟩ := exists_row_unary m hm
    obtain ⟨hsome, hnone⟩ := assemble_unary hrow hf a b
    exact ⟨hsome, _, _, hnone, rfl, rfl, decode_of_mem hrow rfl, mnemonic_build hrow _ _⟩

end Sys2Proof
end

section
/-! Reserved commands (R320, R702): the one fault that decoding raises. -/

namespace Sys2Proof.Machine

/-- An edge that accepts a request with a reserved command, after the first reset. -/
theorem step_of_accepts_reserved {s : State} {e : Reserved} (hb : s.beforeFirstReset = false)
    (hn : refusedStatus s.status = none) (ha : accepts s = true) (hd : decode (currentPins s).request = .error e) :
    step s = execReserved (advance s) := by
  unfold step; rw [rst_of_accepts s ha, hb, hn]; simp [ha, hd]

/-- Settles O25: a reserved command is no command of the map, and its execution is the fault ILLEGAL_CMD. -/
theorem aReservedCommandFaultsWithCause2 : Obligations.A_reserved_command_faults_with_cause_2 := by
  intro s hb hn ha hc
  have hm : (currentPins s).request.cmd ∉ opcodeMap.map OpcodeRow.cmd := by
    rw [mem_commands_iff]
    show ¬ ((currentPins s).reqCmd.toNat ≤ _ ∨ (currentPins s).reqCmd.toNat ∈ _)
    simp only [List.mem_cons, List.not_mem_nil, or_false] at hc ⊢
    omega
  obtain ⟨e, he⟩ := (decode_error_iff _).2 hm
  rw [step_of_accepts_reserved hb hn ha he]
  exact raiseFault_spec (advance s) .misc .illegalCmd

end Sys2Proof.Machine
end

section
/-! The signed comparison, sign extension and bitwise OR as operations on whole values, and the pseudo-instructions whose
results they are (R341). -/

namespace Sys2Proof.Machine

/-- SLT128 is the order of the integers: the high words decide, and between equal ones the low words (R403, R405). -/
theorem slt128_eq (a b : Word128) : slt128 a b = decide (a.toInt < b.toInt) := by
  have hla := (lo a).isLt
  have hlb := (lo b).isLt
  rw [slt128, toInt_eq_words a, toInt_eq_words b]
  by_cases h : hi a = hi b
  · simp [h, BitVec.ult]
  · have hne : (hi a).toInt ≠ (hi b).toInt := fun e => h (BitVec.eq_of_toInt_eq e)
    rw [if_pos (bne_iff_ne.2 h), BitVec.slt, decide_eq_decide]
    omega

/-- OR of the words is OR of the values (R631). -/
theorem words_or (a b : Word128) : words (hi a ||| hi b) (lo a ||| lo b) = a ||| b := by
  apply ext_words
  · rw [hi_words]; exact BitVec.extractLsb'_or.symm
  · rw [lo_words]; exact BitVec.extractLsb'_or.symm

/-- FROM64 is sign extension (R400). -/
theorem from64_eq (v : Word64) : from64 v = v.signExtend 128 := by
  rw [BitVec.signExtend_eq_append_of_le (by decide)]; rfl

/-- Settles O6: the request and the result are those of the instruction that the expansion gives. -/
theorem pseudoInstructionsAreOneRequestEach : Obligations.Pseudo_instructions_are_one_request_each := by
  intro a b v s
  obtain ⟨⟨q, r⟩, hqr⟩ := divmod128_total a b
  refine ⟨⟨encode_of_entry (m := "OR") (by decide) rfl, ?_⟩,
    ⟨encode_of_entry (m := "ADD") (by decide) rfl, ?_⟩,
    ⟨encode_of_entry (m := "SUB") (by decide) rfl, ?_⟩,
    ⟨encode_of_entry (m := "LT") (by decide) rfl, ?_⟩,
    ⟨encode_of_entry (m := "LNOT") (by decide) rfl, ?_⟩,
    ⟨encode_of_entry (m := "DIV") (by decide) rfl, q, r, hqr, ?_⟩,
    encode_of_entry (m := "REM") (by decide) rfl,
    encode_of_entry (m := "SRA") (by decide) rfl,
    encode_of_entry (m := "SLL") (by decide) rfl,
    encode_of_entry (m := "SEXT64") (by decide) rfl, ?_⟩
  · simp only [Pseudo.expand, exec, execOr, respond_eq, words_or, BitVec.ofNat_eq_ofNat, BitVec.or_zero]
  · simp only [Pseudo.expand, exec, execAdd, respond_eq, add128_eq]
  · simp only [Pseudo.expand, exec, execSub, respond_eq, sub128_eq]
  · simp only [Pseudo.expand, exec, execLt, respondBool_eq, slt128_eq, BitVec.ofNat_eq_ofNat, BitVec.toInt_zero,
      decide_eq_true_eq]
  · simp only [Pseudo.expand, exec, execLnot, respondBool_eq, seq128_eq, decide_eq_true_eq]
  · simp only [Pseudo.expand, exec, execDiv, respond_eq, hqr]
  · simp only [Pseudo.expand, exec, execSext64, respond_eq, from64_eq]

end Sys2Proof.Machine
end

section
/-! Sign extension and the comparisons (spec/40_representation_compare.md): what the conditions of SLT128 and SEQ128 say of
the words and of the integers, and the answers that report them. -/

namespace Sys2Proof.Machine

/-! ### The conditions on the words (R403, R404) -/

theorem slt128_eq_words (a b : Word128) :
    slt128 a b =
      if hi a ≠ hi b then decide ((hi a).toInt < (hi b).toInt) else decide ((lo a).toNat < (lo b).toNat) := by
  simp only [slt128, bne_iff_ne, BitVec.slt, BitVec.ult]

theorem seq128_eq_words (a b : Word128) : seq128 a b = decide (hi a = hi b ∧ lo a = lo b) := by
  rw [Bool.decide_and]; rfl

/-! ### The conditions on the integers (R405) -/

theorem seq128_eq_toInt (a b : Word128) : seq128 a b = decide (a.toInt = b.toInt) := by
  rw [seq128_eq, decide_eq_decide, BitVec.toInt_inj]

theorem not_seq128_eq_toInt (a b : Word128) : (!seq128 a b) = decide (a.toInt ≠ b.toInt) := by
  rw [seq128_eq_toInt, ← decide_not]

theorem slt128_or_seq128_eq_toInt (a b : Word128) : (slt128 a b || seq128 a b) = decide (a.toInt ≤ b.toInt) := by
  rw [slt128_eq, seq128_eq_toInt, ← Bool.decide_or, decide_eq_decide, Int.le_iff_lt_or_eq]

theorem not_slt128_eq_toInt (a b : Word128) : (!slt128 a b) = decide (b.toInt ≤ a.toInt) := by
  rw [slt128_eq, ← decide_not, decide_eq_decide, Int.not_lt]

/-! ### The answers -/

/-- R402, with the condition in whatever form it is known. -/
theorem respondBool_eq_of_eq {c d : Bool} (h : c = d) (s : State) :
    respondBool c s = .next (answered .cmp (if d then 1 else 0) 0 d s) := by
  rw [h, respondBool_eq]

/-- Settles O32: CMD 0x0C finds the row of SEXT64 with A.lo, and FROM64 is sign extension. -/
theorem sext64SignExtendsTheLowWord : Obligations.SEXT64_sign_extends_the_low_word := by
  intro a b v s
  have hdecode : decode ⟨0x0C, a, b⟩ = .ok (.sext64 (lo a)) := rfl
  have hexec : exec (.sext64 v) s = .next (answered .misc (from64 v) 0 false s) := respond_eq s _ _ _ _
  rw [from64_eq] at hexec
  exact ⟨hdecode, hexec, (from64_eq v).symm, BitVec.toInt_signExtend_of_le (by decide)⟩

/-- Settles O33: the conditions are SLT128 and SEQ128 by their words, and each comparison answers its own (R402). -/
theorem comparisonsAnswerTheConditionOnTheWords : Obligations.Comparisons_answer_the_condition_on_the_words := by
  intro a b s less equal boolean
  have hless : less = slt128 := funext₂ fun x y => (slt128_eq_words x y).symm
  have hequal : equal = seq128 := funext₂ fun x y => (seq128_eq_words x y).symm
  have hanswer : ∀ c, respondBool c s = .next (boolean c) := respondBool_eq s
  obtain ⟨hEQ, hNE, hLT, hLE, hGT, hGE, hTRUTH, hLNOT, -⟩ := opcodeMapSelectsThe22Commands.1 a b
  rw [hless, hequal]
  exact ⟨fun x y => by rw [seq128_eq, decide_eq_true_iff], ⟨hEQ, hanswer _⟩, ⟨hNE, hanswer _⟩, ⟨hLT, hanswer _⟩,
    ⟨hLE, hanswer _⟩, ⟨hGT, hanswer _⟩, ⟨hGE, hanswer _⟩, ⟨hTRUTH, hanswer _⟩, ⟨hLNOT, hanswer _⟩⟩

/-- Settles O34: SLT128 and SEQ128 are < and = of the integers, and the other conditions are made of these. -/
theorem comparisonsOrderTheIntegers : Obligations.Comparisons_order_the_integers := fun a b s =>
  ⟨respondBool_eq_of_eq (seq128_eq_toInt a b) s, respondBool_eq_of_eq (not_seq128_eq_toInt a b) s,
    respondBool_eq_of_eq (slt128_eq a b) s, respondBool_eq_of_eq (slt128_or_seq128_eq_toInt a b) s,
    respondBool_eq_of_eq (slt128_eq b a) s, respondBool_eq_of_eq (not_slt128_eq_toInt a b) s,
    respondBool_eq_of_eq (not_seq128_eq_toInt a 0) s, respondBool_eq_of_eq (seq128_eq_toInt a 0) s⟩

end Sys2Proof.Machine
end

section
/-! The additive core (spec/41_additive.md): the carry and the borrow between the words, and the answers of ADD, SUB, NEG
and ABS as operations on whole values. -/

namespace Sys2Proof.Machine

/-! ### The carry and the borrow (R452, R454) -/

theorem carry64_iff (a b : Word64) : carry64 a b = true ↔ 2 ^ 64 ≤ a.toNat + b.toNat := by
  have hcarry := toNat_carry a b
  have := a.isLt; have := b.isLt
  rw [toNat_zextBool64] at hcarry
  split at hcarry
  case isTrue h => exact iff_of_true h (by omega)
  case isFalse h => exact iff_of_false h (by omega)

theorem borrow64_iff (a b : Word64) : borrow64 a b = true ↔ a.toNat < b.toNat := by
  have hborrow := toNat_borrow a b
  rw [toNat_zextBool64] at hborrow
  split at hborrow
  case isTrue h => exact iff_of_true h (by split at hborrow <;> omega)
  case isFalse h => exact iff_of_false h (by split at hborrow <;> omega)

/-- Settles O40: each comparison, as the number 0 or 1, is the carry or the borrow of the low words. -/
theorem carryAndBorrowAreThoseOfTheLowWords : Obligations.Carry_and_borrow_are_those_of_the_low_words :=
  fun a b => ⟨carry64_iff a b, borrow64_iff a b⟩

/-! ### The commands and the answers -/

/-- The rows of the opcode map that ADD, SUB, NEG and ABS stand in (R310). -/
theorem decode_additive (a b : Word128) :
    decode ⟨0x08, a, b⟩ = .ok (.add a b) ∧ decode ⟨0x09, a, b⟩ = .ok (.sub a b) ∧
      decode ⟨0x0A, a, b⟩ = .ok (.neg a) ∧ decode ⟨0x0B, a, b⟩ = .ok (.abs a) := by
  obtain ⟨-, -, -, -, -, -, -, -, hADD, hSUB, hNEG, hABS, -⟩ := opcodeMapSelectsThe22Commands.1 a b
  exact ⟨hADD, hSUB, hNEG, hABS⟩

theorem exec_add (a b : Word128) (s : State) : exec (.add a b) s = .next (answered .add (a + b) 0 false s) := by
  rw [exec, execAdd, respond_eq, add128_eq]

theorem exec_sub (a b : Word128) (s : State) : exec (.sub a b) s = .next (answered .add (a - b) 0 false s) := by
  rw [exec, execSub, respond_eq, sub128_eq]

theorem exec_neg (a : Word128) (s : State) : exec (.neg a) s = .next (answered .add (-a) 0 false s) := by
  rw [exec, execNeg, respond_eq, neg128_eq]

theorem exec_abs_of_ne_MIN {a : Word128} (h : a ≠ MIN) (s : State) :
    exec (.abs a) s = .next (answered .add (mag a) 0 false s) := by
  rw [exec, execAbs, if_neg h, respond_eq]

/-- Settles O36: the word-by-word adder is addition of the whole values. -/
theorem addAddsModuloTwoTo128 : Obligations.ADD_adds_modulo_two_to_128 :=
  fun a b s => ⟨(decode_additive a b).1, exec_add a b s⟩

/-- Settles O37: the word-by-word subtractor is subtraction of the whole values, which ADD undoes. -/
theorem subSubtractsModuloTwoTo128 : Obligations.SUB_subtracts_modulo_two_to_128 := by
  intro a b s
  obtain ⟨-, hSUB, -⟩ := decode_additive a b
  have hback := exec_add (a - b) b s
  rw [BitVec.sub_add_cancel] at hback
  exact ⟨hSUB, exec_sub a b s, hback⟩

/-- R462: MIN is its own negative. -/
theorem neg_MIN : -MIN = MIN := by decide

/-- Settles O38: the word-by-word negation is that of the whole value, and MIN is its own negative. -/
theorem negNegatesModuloTwoTo128 : Obligations.NEG_negates_modulo_two_to_128 := by
  intro a b s
  obtain ⟨-, -, hNEG, -⟩ := decode_additive a b
  have hMIN := exec_neg MIN s
  rw [neg_MIN] at hMIN
  exact ⟨hNEG, exec_neg a s, hMIN⟩

/-! ### The absolute value (R463) -/

theorem toInt_eq_neg_two_pow_127_iff (a : Word128) : a.toInt = -(2 ^ 127) ↔ a = MIN := by
  have hMIN : MIN.toInt = -(2 ^ 127) := by decide
  rw [← hMIN, BitVec.toInt_inj]

/-- MAG read signed: but for MIN the magnitude is below 2^127, so it denotes itself. -/
theorem toInt_mag {a : Word128} (h : a ≠ MIN) : (mag a).toInt = |a.toInt| := by
  have hMIN := mt (toInt_eq_neg_two_pow_127_iff a).1 h
  have hmag := toNat_mag a
  obtain ⟨-, hlow, hhigh, -⟩ := aValueDenotesTheIntegerOfItsWords.1 a
  have hsmall : 2 * (mag a).toNat < 2 ^ 128 := by omega
  rw [BitVec.toInt_eq_toNat_of_lt hsmall, hmag, Int.natCast_natAbs]

/-- Settles O39: MIN alone raises ABS_MIN, and the magnitude of any other operand is the answer. -/
theorem absIsTheMagnitudeOrAFault : Obligations.ABS_is_the_magnitude_or_a_fault := by
  intro a b s
  obtain ⟨-, -, -, hABS⟩ := decode_additive a b
  rw [ne_eq, toInt_eq_neg_two_pow_127_iff]
  refine ⟨hABS, fun h => ⟨mag a, toInt_mag h, exec_abs_of_ne_MIN h s⟩, fun h => ?_⟩
  rw [h, exec_abs_MIN]
  exact raiseFault_spec s .add .absMin

end Sys2Proof.Machine
end

section
/-! The multiplicative core (spec/42_multiply.md): the three datapaths read unsigned, and MUL as the product of whole
values. -/

namespace Sys2Proof.Machine

/-- Settles O42: each datapath is the product of the patterns, which is that of their unsigned readings modulo 2^128. -/
theorem theMultiplierDatapathsAgree : Obligations.The_multiplier_datapaths_agree :=
  fun m x y => by rw [umul128_eq, BitVec.toNat_mul]

/-- R506: the signs stripped from the operands cancel, or are put back on the product. -/
theorem mul128_eq (m : MulImpl) (a b : Word128) : mul128 m a b = a * b := by
  simp only [mul128, umul128_eq, mag, neg128_eq]
  cases isNegative a <;> cases isNegative b
  case false.false => rfl
  case false.true => exact neg_eq_iff_eq_neg.2 (mul_neg a b)
  case true.false => exact neg_eq_iff_eq_neg.2 (neg_mul a b)
  case true.true => exact neg_mul_neg a b

theorem exec_mul (a b : Word128) (s : State) : exec (.mul a b) s = .next (answered .mul (a * b) 0 false s) := by
  rw [exec, execMul, respond_eq, mul128_eq]

/-- Settles O41: CMD 0x10 finds the row of MUL, and sign stripping around any datapath is the product of whole values. -/
theorem mulMultipliesModuloTwoTo128 : Obligations.MUL_multiplies_modulo_two_to_128 := by
  intro a b s
  have hdecode : decode ⟨0x10, a, b⟩ = .ok (.mul a b) := rfl
  exact ⟨hdecode, exec_mul a b s⟩

end Sys2Proof.Machine
end

section
/-! HIGHBIT and the long-division engine (spec/43_divide.md section 2): the engine is division of the 128-bit patterns. -/

namespace Sys2Proof.Machine

/-! ### HIGHBIT (R557) -/

theorem toNat_lt_two_pow_of_getLsbD_false {m : Word128} {n : Nat} (h : m.toNat < 2 ^ (n + 1)) (hb : m.getLsbD n = false) :
    m.toNat < 2 ^ n := by
  refine Nat.lt_pow_two_of_testBit _ fun i hi => ?_
  obtain rfl | hlt := hi.eq_or_lt
  · exact hb
  · exact Nat.testBit_lt_two_pow (h.trans_le (Nat.pow_le_pow_right two_pos hlt))

theorem highBitBelow_le_iff {m : Word128} {n : Nat} (h : m.toNat < 2 ^ n) (k : Nat) :
    highBitBelow m n ≤ k ↔ m.toNat < 2 ^ k := by
  induction n with
  | zero => exact iff_of_true k.zero_le (h.trans_le (Nat.pow_le_pow_right two_pos k.zero_le))
  | succ n ih =>
    rw [highBitBelow]
    split
    case isTrue hb =>
      have hge : 2 ^ n ≤ m.toNat := Nat.ge_two_pow_of_testBit hb
      exact ⟨fun hk => h.trans_le (Nat.pow_le_pow_right two_pos hk),
        fun hk => (Nat.pow_lt_pow_iff_right one_lt_two).1 (hge.trans_lt hk)⟩
    case isFalse hb => exact ih (toNat_lt_two_pow_of_getLsbD_false h (Bool.eq_false_of_not_eq_true hb))

theorem highBit_le_iff (m : Word128) (k : Nat) : highBit m ≤ k ↔ m.toNat < 2 ^ k := highBitBelow_le_iff m.isLt k

/-- Settles O49: `highBit m ≤ n` and `m < 2^n` are the same condition on n. -/
theorem highbitIsTheLeastPowerAbove : Obligations.HIGHBIT_is_the_least_power_above := fun m =>
  ⟨(highBit_le_iff m _).1 le_rfl, fun n => (highBit_le_iff m n).2, (highBit_le_iff m 127).2⟩

/-! ### One iteration (R556) -/

/-- Shifting a dividend bit in. -/
theorem shiftLeft_or_zextBool128 (r : Word128) (bit : Bool) : r <<< 1 ||| zextBool128 bit = r.shiftConcat bit := by
  ext i hi
  rw [BitVec.getElem_or, BitVec.getElem_shiftLeft, BitVec.getElem_shiftConcat]
  cases i <;> cases bit <;> simp [zextBool128]

/-- R558: no bit is lost from a number below 2^127. -/
theorem toNat_shiftConcat_of_lt {p : Word128} (hp : p.toNat < 2 ^ 127) (bit : Bool) :
    (p.shiftConcat bit).toNat = p.toNat * 2 + bit.toNat :=
  BitVec.toNat_shiftConcat_eq_of_lt (by decide) hp

theorem toNat_add_one_of_lt {p : Word128} (hp : p.toNat + 1 < 2 ^ 128) : (p + 1).toNat = p.toNat + 1 :=
  BitVec.toNat_add_of_lt hp

/-- A quotient and a remainder are known by what they add up to. -/
theorem ok_div_mod_of_mul_add {n v q r : Word128} (hr : r.toNat < v.toNat)
    (h : v.toNat * q.toNat + r.toNat = n.toNat) :
    (Except.ok (q, r) : Except Cause (Word128 × Word128)) = .ok (n / v, n % v) := by
  rw [BitVec.udiv_eq_of_mul_add_toNat (BitVec.lt_def.2 (r.toNat.zero_le.trans_lt hr)) hr h,
    BitVec.umod_eq_of_mul_add_toNat hr h]

/-- One iteration brings the quotient and the remainder of a prefix of the dividend to those of the prefix with the next
bit. -/
theorem divideStep_div_mod {p v : Word128} (hp : p.toNat < 2 ^ 127) (hv : 0 < v.toNat) (bit : Bool) :
    divideStep bit v (p / v) (p % v) = .ok (p.shiftConcat bit / v, p.shiftConcat bit % v) := by
  have hmod : (p % v).toNat < v.toNat := Nat.mod_lt _ hv
  have hdiv : v.toNat * (p / v).toNat + (p % v).toNat = p.toNat := Nat.div_add_mod _ _
  have hq : (p / v).toNat ≤ p.toNat := Nat.div_le_self _ _
  have hr : ((p % v).shiftConcat bit).toNat = (p % v).toNat * 2 + bit.toNat := toNat_shiftConcat_of_lt (by omega) bit
  have hqShift : ((p / v) <<< 1).toNat = (p / v).toNat * 2 := by
    rw [BitVec.toNat_shiftLeft, Nat.shiftLeft_eq]; omega
  have hbit := bit.toNat_lt
  rw [divideStep_eq, shiftLeft_or_zextBool128, add128_eq, sub128_eq]
  split
  case isTrue h =>
    have hle : v.toNat ≤ ((p % v).shiftConcat bit).toNat := BitVec.ule_iff_le.1 h
    have hqSucc : ((p / v) <<< 1 + 1).toNat = (p / v).toNat * 2 + 1 := by
      rw [toNat_add_one_of_lt (by omega), hqShift]
    have hrSub := BitVec.toNat_sub_of_le (BitVec.le_def.2 hle)
    refine ok_div_mod_of_mul_add (by omega) ?_
    rw [hqSucc, hrSub, hr, toNat_shiftConcat_of_lt hp, ← hdiv, Nat.mul_add, ← Nat.mul_assoc]
    omega
  case isFalse h =>
    have hlt : ((p % v).shiftConcat bit).toNat < v.toNat := Nat.lt_of_not_le (mt BitVec.ule_iff_le.2 h)
    refine ok_div_mod_of_mul_add hlt ?_
    rw [hqShift, hr, toNat_shiftConcat_of_lt hp, ← hdiv, ← Nat.mul_assoc]
    omega

/-! ### The loop -/

/-- From the quotient and the remainder of the bits above bit n, the loop over the bits below goes to those of the whole
dividend. -/
theorem divideLoop_div_mod (m : Word128) {v : Word128} (hv : 0 < v.toNat) (n : Nat) :
    divideLoop m v n ((m >>> n) / v) ((m >>> n) % v) = .ok (m / v, m % v) := by
  induction n with
  | zero => rw [divideLoop_zero, BitVec.ushiftRight_zero]
  | succ n ih =>
    have hprefix : (m >>> (n + 1)).toNat < 2 ^ 127 := by
      have := m.isLt
      rw [BitVec.toNat_ushiftRight, Nat.shiftRight_succ]
      have := Nat.shiftRight_le m.toNat n
      omega
    have hnext : m >>> n = (m >>> (n + 1)).shiftConcat (m.getLsbD n) :=
      BitVec.shiftRight_sub_one_eq_shiftConcat m n.succ_pos
    rw [divideLoop, divideStep_div_mod hprefix hv, ← hnext]
    exact ih

/-- R556, R559: from every bit above which the dividend has none, the loop divides. -/
theorem divideLoop_eq {m v : Word128} (hv : 0 < v.toNat) {n : Nat} (hn : m.toNat < 2 ^ n) :
    divideLoop m v n 0 0 = .ok (m / v, m % v) := by
  have hm : m >>> n = 0#128 := by
    apply BitVec.eq_of_toNat_eq
    rw [BitVec.toNat_ushiftRight, Nat.shiftRight_eq_div_pow]
    exact Nat.div_eq_of_lt hn
  have h := divideLoop_div_mod m hv n
  rw [hm, BitVec.zero_udiv, BitVec.zero_umod] at h
  exact h

/-- R556: the engine is unsigned division, for every divisor but 0. -/
theorem umagDiv_eq (m : Word128) {v : Word128} (hv : 0 < v.toNat) : umagDiv m v = .ok (m / v, m % v) :=
  divideLoop_eq hv ((highBit_le_iff m _).1 le_rfl)

/-- Settles O48: unsigned division of the patterns is that of the natural numbers. -/
theorem theEngineDividesMagnitudes : Obligations.The_engine_divides_magnitudes := fun m v _ hv _ =>
  ⟨m / v, m % v, umagDiv_eq m hv, BitVec.toNat_udiv, BitVec.toNat_umod⟩

/-- Settles O50: from every bit above the dividend the loop divides, and a subtraction borrows when it wraps. -/
theorem equivalentFormsOfTheEngine : Obligations.Equivalent_forms_of_the_engine := by
  refine ⟨fun m v hm hv => ?_, fun r v => ?_⟩
  · rw [umagDiv_eq m hv]
    exact ⟨divideLoop_eq hv hm, divideLoop_eq hv m.isLt⟩
  · have := r.isLt; have := v.isLt
    rw [sub128_eq, BitVec.ule, BitVec.ult, BitVec.toNat_sub, ← decide_not, decide_eq_decide]
    omega

end Sys2Proof.Machine
end

section
/-! DIVMOD128 and the instructions DIV and REM (spec/43_divide.md sections 1, 3 and 4): the four cases of R551 are one
division of the signed patterns. -/

namespace Sys2Proof.Machine

/-! ### The general case (R555) -/

theorem toNat_mag_pos {d : Word128} (hd : d ≠ 0) : 0 < (mag d).toNat := by
  rw [toNat_mag, Int.natAbs_pos]
  exact fun h => hd (BitVec.eq_of_toInt_eq h)

/-- The signs around the engine are those of signed division, for the dividend MIN and the divisor MIN as well. -/
theorem divGeneral_eq (x : Word128) {d : Word128} (hd : d ≠ 0) : divGeneral x d = .ok (x.sdiv d, x.srem d) := by
  rw [divGeneral, umagDiv_eq _ (toNat_mag_pos hd), BitVec.sdiv_eq, BitVec.srem_eq]
  simp only [mag, isNegative_eq_msb, neg128_eq]
  cases x.msb <;> cases d.msb <;> rfl

/-! ### Signed division of patterns and of integers (R560) -/

theorem sdiv_eq_ofInt (x d : Word128) : x.sdiv d = BitVec.ofInt 128 (x.toInt.tdiv d.toInt) := by
  apply BitVec.eq_of_toInt_eq
  rw [BitVec.toInt_sdiv, BitVec.toInt_ofInt]

theorem srem_eq_ofInt (x d : Word128) : x.srem d = BitVec.ofInt 128 (x.toInt.tmod d.toInt) := by
  rw [← BitVec.toInt_srem, BitVec.ofInt_toInt]

/-- R560's identity, which wraps where the quotient does. -/
theorem sdiv_mul_add_srem (x d : Word128) : x.sdiv d * d + x.srem d = x := by
  have h := congrArg (BitVec.ofInt 128) (Int.tdiv_mul_add_tmod x.toInt d.toInt)
  rwa [BitVec.ofInt_add, BitVec.ofInt_mul, ← sdiv_eq_ofInt, ← srem_eq_ofInt, BitVec.ofInt_toInt, BitVec.ofInt_toInt] at h

/-! ### The dividend MIN (R554) -/

/-- The correction of R554 on the integers: the quotient and the remainder of n from those of n + 1. -/
theorem tdiv_tmod_eq_of_succ {n d : Int} (hn : n < 0) (hd : d ≠ 0) :
    if ((n + 1).tmod d).natAbs + 1 = d.natAbs then
      n.tdiv d = (if d < 0 then (n + 1).tdiv d + 1 else (n + 1).tdiv d - 1) ∧ n.tmod d = 0
    else n.tdiv d = (n + 1).tdiv d ∧ n.tmod d = (n + 1).tmod d - 1 := by
  obtain ⟨hsum, hlow, hhigh⟩ := (Int.tdiv_tmod_unique' (a := n + 1) (by omega) hd).1 ⟨rfl, rfl⟩
  split
  case isTrue h =>
    refine (Int.tdiv_tmod_unique' hn.le hd).2 ⟨?_, by omega, le_rfl⟩
    split
    · rw [mul_add]; omega
    · rw [mul_sub]; omega
  case isFalse h => exact (Int.tdiv_tmod_unique' hn.le hd).2 ⟨by omega, by omega, by omega⟩

theorem mag_srem_lt (x : Word128) {d : Word128} (hd : d ≠ 0) : (mag (x.srem d)).toNat < (mag d).toNat := by
  rw [toNat_mag, BitVec.toInt_srem, Int.natAbs_tmod, ← toNat_mag d]
  exact Nat.mod_lt _ (toNat_mag_pos hd)

/-- The condition of R554 is that of the integers: a remainder's magnitude is below the divisor's, so adding 1 does not wrap. -/
theorem mag_srem_add_one_eq_iff (x : Word128) {d : Word128} (hd : d ≠ 0) :
    mag (x.srem d) + 1 = mag d ↔ (x.toInt.tmod d.toInt).natAbs + 1 = d.toInt.natAbs := by
  have hlt := mag_srem_lt x hd
  have := (mag d).isLt
  rw [← BitVec.toNat_inj, toNat_add_one_of_lt (by omega), toNat_mag, toNat_mag, BitVec.toInt_srem]

theorem ofInt_add_one (n : Int) : BitVec.ofInt 128 (n + 1) = BitVec.ofInt 128 n + 1 := BitVec.ofInt_add n 1

theorem ofInt_sub_one (n : Int) : BitVec.ofInt 128 (n - 1) = BitVec.ofInt 128 n - 1 :=
  eq_sub_of_add_eq (by rw [← ofInt_add_one, Int.sub_add_cancel])

/-- R554 is signed division of MIN, whatever the divisor but 0. -/
theorem divMin_eq {d : Word128} (hd : d ≠ 0) : divMin d = .ok (MIN.sdiv d, MIN.srem d) := by
  have hneg : isNegative d = true ↔ d.toInt < 0 := by rw [isNegative_eq_msb, BitVec.msb_eq_toInt, decide_eq_true_iff]
  have hMIN : (MIN + 1).toInt = MIN.toInt + 1 := by decide
  have hint := tdiv_tmod_eq_of_succ (n := MIN.toInt) (by decide) (fun h => hd (BitVec.eq_of_toInt_eq h))
  rw [← hMIN] at hint
  rw [divMin, add128_eq MIN, divGeneral_eq _ hd]
  simp only [add128_eq, sub128_eq, hneg, mag_srem_add_one_eq_iff _ hd]
  rw [sdiv_eq_ofInt, sdiv_eq_ofInt, srem_eq_ofInt, srem_eq_ofInt]
  split at hint
  case isTrue h =>
    obtain ⟨hq, hr⟩ := hint
    rw [if_pos h, hq, hr, apply_ite (BitVec.ofInt 128), ofInt_add_one, ofInt_sub_one]; rfl
  case isFalse h =>
    obtain ⟨hq, hr⟩ := hint
    rw [if_neg h, hq, hr, ofInt_sub_one]

/-! ### The divisor MIN (R553) -/

theorem sdiv_MIN (x : Word128) : x.sdiv MIN = if x = MIN then 1 else 0 := BitVec.sdiv_intMin

theorem srem_MIN (x : Word128) : x.srem MIN = if x = MIN then 0 else x := by
  split
  case isTrue h => rw [h, BitVec.srem_self]; rfl
  case isFalse h =>
    have hsum := sdiv_mul_add_srem x MIN
    rwa [sdiv_MIN, if_neg h, zero_mul, zero_add] at hsum

/-! ### The four cases (R551) -/

/-- DIVMOD128 is signed division of the patterns, the divisor 0 (R552) and the divisor MIN (R553) included. -/
theorem divmod128_eq (x d : Word128) : divmod128 x d = .ok (x.sdiv d, x.srem d) := by
  unfold divmod128
  split_ifs with h0 hm hxm hx
  case pos => rw [h0]; exact congrArg Except.ok (Prod.ext BitVec.sdiv_zero.symm BitVec.srem_zero.symm)
  case pos => rw [hm, sdiv_MIN, srem_MIN, if_pos hxm, if_pos hxm]
  case neg => rw [hm, sdiv_MIN, srem_MIN, if_neg hxm, if_neg hxm]
  case pos => rw [hx]; exact divMin_eq h0
  case neg => exact divGeneral_eq x h0

theorem exec_div (a b : Word128) (s : State) :
    exec (.div a b) s = .next (answered .div (a.sdiv b) (a.srem b) false s) := by
  simp only [exec, execDiv, divmod128_eq, respond_eq]

theorem exec_rem (a b : Word128) (s : State) :
    exec (.rem a b) s = .next (answered .div (a.srem b) (a.sdiv b) false s) := by
  simp only [exec, execRem, divmod128_eq, respond_eq]

/-- Settles O46: signed division of the patterns is that of the integers, modulo 2^128. -/
theorem divAndRemTruncateTowardZero : Obligations.DIV_and_REM_truncate_toward_zero := by
  intro a b s q r
  have hq : a.sdiv b = q := sdiv_eq_ofInt a b
  have hr : a.srem b = r := srem_eq_ofInt a b
  have hdecodeDiv : decode ⟨0x11, a, b⟩ = .ok (.div a b) := rfl
  have hdecodeRem : decode ⟨0x12, a, b⟩ = .ok (.rem a b) := rfl
  rw [← hq, ← hr]
  exact ⟨⟨hdecodeDiv, exec_div a b s⟩, hdecodeRem, exec_rem a b s⟩

/-- Settles O47: the sign and the bound are those of the remainder of the integers. -/
theorem quotientTimesDivisorPlusRemainder : Obligations.Quotient_times_divisor_plus_remainder := by
  intro m x d hd
  refine ⟨x.sdiv d, x.srem d, divmod128_eq x d, ?_, ?_, ?_⟩
  · rw [mul128_eq, add128_eq, sdiv_mul_add_srem]
  · by_cases h : x.srem d = 0
    · exact .inl h
    · have hmsb : (x.srem d).msb = x.msb := by rw [BitVec.msb_srem, decide_eq_true h, Bool.and_true]
      rw [BitVec.msb_eq_toInt, BitVec.msb_eq_toInt, decide_eq_decide] at hmsb
      exact .inr hmsb
  · rw [Int.abs_eq_natAbs, Int.abs_eq_natAbs, ← toNat_mag, ← toNat_mag]
    exact Int.ofNat_lt.2 (mag_srem_lt x hd)

/-! ### The special operands -/

/-- Settles O43: signed division by 0 is the convention of R552. -/
theorem divisionByZeroGivesZeroAndTheDividend : Obligations.Division_by_zero_gives_zero_and_the_dividend := by
  intro a s
  have hq : a.sdiv 0 = 0 := BitVec.sdiv_zero
  have hr : a.srem 0 = a := BitVec.srem_zero
  rw [exec_div, exec_rem, hq, hr]
  exact ⟨rfl, rfl⟩

/-- Settles O44: only MIN reaches the divisor MIN. -/
theorem divisionByMIN : Obligations.Division_by_MIN := by
  intro a s q r
  rw [exec_div, exec_rem, sdiv_MIN, srem_MIN]
  exact ⟨rfl, rfl⟩

/-- Settles O45: signed division of patterns wraps for MIN and -1, which leave no remainder. -/
theorem minDividedByMinusOne : Obligations.MIN_divided_by_minus_one := by
  intro s
  have hq : MIN.sdiv (-1) = MIN := BitVec.intMin_sdiv_neg_one
  have hr : MIN.srem (-1) = 0 := by decide
  have hdiv := exec_div MIN (-1) s
  have hrem := exec_rem MIN (-1) s
  rw [hq, hr] at hdiv hrem
  exact ⟨hdiv, hrem⟩

end Sys2Proof.Machine
end

section
/-! The bitwise operations and the two shifts (spec/44_shift_bitwise.md): the word-by-word forms as operations on whole
values. -/

namespace Sys2Proof.Machine

/-! ### Bit by bit (R607) -/

/-- AND of the words is AND of the values (R630). -/
theorem words_and (a b : Word128) : words (hi a &&& hi b) (lo a &&& lo b) = a &&& b := by
  apply ext_words
  · rw [hi_words]; exact BitVec.extractLsb'_and.symm
  · rw [lo_words]; exact BitVec.extractLsb'_and.symm

/-- XOR of the words is XOR of the values (R632). -/
theorem words_xor (a b : Word128) : words (hi a ^^^ hi b) (lo a ^^^ lo b) = a ^^^ b := by
  apply ext_words
  · rw [hi_words]; exact BitVec.extractLsb'_xor.symm
  · rw [lo_words]; exact BitVec.extractLsb'_xor.symm

/-- The complements of the words are the complement of the value (R633). -/
theorem words_not (a : Word128) : words (~~~(hi a)) (~~~(lo a)) = ~~~a :=
  BitVec.not_append.symm.trans (congrArg _ (words_hi_lo a))

/-- Settles O53: the operations on the two words are those on the whole patterns. -/
theorem bitwiseOperationsActOnEveryBit : Obligations.Bitwise_operations_act_on_every_bit := by
  intro a b s
  refine ⟨⟨rfl, ?_⟩, ⟨rfl, ?_⟩, ⟨rfl, ?_⟩, rfl, ?_⟩ -- the commands find their rows (R310)
  · rw [exec, execAnd, respond_eq, words_and]
  · rw [exec, execOr, respond_eq, words_or]
  · rw [exec, execXor, respond_eq, words_xor]
  · rw [exec, execNot, respond_eq, words_not]

/-! ### The amount (R600) -/

theorem bigAmount_iff (b : Word128) : bigAmount b = true ↔ 128 ≤ b.toNat := by
  have hhi := toNat_hi b
  have hlo := toNat_lo b
  have hle : (128 : Word64).ule (lo b) = true ↔ 128 ≤ (lo b).toNat := decide_eq_true_iff
  rw [bigAmount, Bool.or_eq_true, bne_iff_ne, Ne, ← BitVec.toNat_inj, hle, show (0 : Word64).toNat = 0 from rfl]
  omega

theorem shiftAmount_of_lt {b : Word128} (h : b.toNat < 128) : shiftAmount b = b.toNat := by
  rw [shiftAmount, toNat_lo]; omega

/-! ### Right shift: the words of the shifted value (R601) -/

/-- Below an amount of 64 the low word takes in the bits that leave the high word. -/
theorem sshiftRight_eq_words_of_lt (a : Word128) {k : Nat} (h : k < 64) :
    a.sshiftRight k = words ((hi a).sshiftRight k) (hi a <<< (64 - k) ||| lo a >>> k) := by
  apply ext_words
  · rw [hi_words]; ext i; grind [hi]
  · rw [lo_words]; ext i; grind [hi, lo]

/-- From 64 on the high word is all sign, and the low word is the high word shifted by the rest. -/
theorem sshiftRight_eq_words_of_le (a : Word128) {k : Nat} (h : 64 ≤ k) :
    a.sshiftRight k = words ((hi a).sshiftRight 63) ((hi a).sshiftRight (k - 64)) := by
  apply ext_words
  · rw [hi_words]; ext i; grind [hi]
  · rw [lo_words]; ext i; grind [hi, lo]

/-- SRA128 is the arithmetic shift for every amount that is not big (R602). -/
theorem sra128_of_lt (a : Word128) {b : Word128} (h : b.toNat < 128) : sra128 a b = a.sshiftRight b.toNat := by
  unfold sra128
  simp only [bigAmount_iff, shiftAmount_of_lt h, Nat.not_le.2 h, if_false]
  split_ifs with h0 h64 hlt
  case pos => rw [h0, BitVec.sshiftRight_zero]
  case pos => rw [h64, sshiftRight_eq_words_of_le a le_rfl, Nat.sub_self, BitVec.sshiftRight_zero]
  case pos => exact (sshiftRight_eq_words_of_lt a hlt).symm
  case neg => exact (sshiftRight_eq_words_of_le a (by omega)).symm

theorem sra128_of_le (a : Word128) {b : Word128} (h : 128 ≤ b.toNat) : sra128 a b = 0 :=
  if_pos ((bigAmount_iff b).2 h)

/-- Settles O51: the arithmetic shift of a pattern rounds its integer down. -/
theorem sraShiftsRightOrAnswersZero : Obligations.SRA_shifts_right_or_answers_zero := by
  intro a b s
  have hdecode : decode ⟨0x18, a, b⟩ = .ok (.sra a b) := rfl
  refine ⟨hdecode, sra128 a b, respond_eq s .shift (sra128 a b) 0 false, fun h => ?_, sra128_of_le a⟩
  rw [sra128_of_lt a h, BitVec.toInt_sshiftRight, Int.shiftRight_eq_div_pow, Int.fdiv_eq_ediv_of_nonneg _ (by positivity)]
  rfl

/-! ### Left shift: the words of the shifted value, and its cleared top bit (R603) -/

/-- Below an amount of 64 the high word takes in the bits that leave the low word. -/
theorem shiftLeft_eq_words_of_lt (a : Word128) {k : Nat} (h : k < 64) :
    a <<< k = words (hi a <<< k ||| lo a >>> (64 - k)) (lo a <<< k) := by
  apply ext_words
  · rw [hi_words]; ext i; grind [hi, lo]
  · rw [lo_words]; ext i; grind [lo]

/-- From 64 on the low word is empty, and the high word is the low word shifted by the rest. -/
theorem shiftLeft_eq_words_of_le (a : Word128) {k : Nat} (h : 64 ≤ k) : a <<< k = words (lo a <<< (k - 64)) 0 := by
  apply ext_words
  · rw [hi_words]; ext i; grind [hi, lo]
  · rw [lo_words]; ext i; grind [lo]

/-- Bit 127 is the top bit of the high word. -/
theorem words_and_not_SIGN64 (h l : Word64) : words (h &&& ~~~SIGN64) l = words h l &&& MAX := by
  rw [← words_and, hi_words, lo_words, show hi MAX = ~~~SIGN64 by decide, show lo MAX = BitVec.allOnes 64 by decide,
    BitVec.and_allOnes]

theorem toNat_and_MAX (v : Word128) : (v &&& MAX).toNat = v.toNat % 2 ^ 127 :=
  (BitVec.toNat_and v MAX).trans (Nat.and_two_pow_sub_one_eq_mod v.toNat 127)

/-- SLL128 of a value that is not negative is the shift with bit 127 cleared, for the amount 0 too: bit 127 is 0 already
(R604). -/
theorem sll128_of_lt {a b : Word128} (ha : isNegative a = false) (h : b.toNat < 128) :
    sll128 a b = a <<< b.toNat &&& MAX := by
  unfold sll128
  simp only [ha, bigAmount_iff, shiftAmount_of_lt h, Nat.not_le.2 h, if_false, Bool.false_eq_true]
  split_ifs with h0 hlt h64
  case pos =>
    have := mt (isNegative_iff a).2 (Bool.eq_false_iff.1 ha)
    apply BitVec.eq_of_toNat_eq
    rw [toNat_and_MAX, h0, BitVec.shiftLeft_zero, Nat.mod_eq_of_lt (Nat.not_le.1 this)]
  case pos => rw [words_and_not_SIGN64, ← shiftLeft_eq_words_of_lt a hlt]
  case pos => rw [words_and_not_SIGN64, h64, shiftLeft_eq_words_of_le a le_rfl, Nat.sub_self, BitVec.shiftLeft_zero]
  case neg => rw [words_and_not_SIGN64, ← shiftLeft_eq_words_of_le a (by omega)]

theorem sll128_of_isNegative {a : Word128} (h : isNegative a = true) (b : Word128) : sll128 a b = 0 := if_pos h

theorem sll128_of_le (a : Word128) {b : Word128} (h : 128 ≤ b.toNat) : sll128 a b = 0 := by
  simp only [sll128, (bigAmount_iff b).2 h, if_true, ite_self]

/-- Settles O52: the product modulo 2^128 of the shift is that modulo 2^127 when bit 127 is cleared. -/
theorem sllShiftsLeftBelowBit127 : Obligations.SLL_shifts_left_below_bit_127 := by
  intro a b s
  have hdecode : decode ⟨0x19, a, b⟩ = .ok (.sll a b) := rfl
  have hneg : isNegative a = true ↔ a.toInt < 0 := by rw [isNegative_eq_msb, toInt_neg_iff_bit127]; rfl
  refine ⟨hdecode, sll128 a b, respond_eq s .shift (sll128 a b) 0 false, fun ha => sll128_of_isNegative (hneg.2 ha) b,
    sll128_of_le a, fun ha hb => ?_⟩
  have hpos : isNegative a = false := Bool.eq_false_iff.2 (mt hneg.1 (Int.not_lt.2 ha))
  rw [sll128_of_lt hpos hb, toNat_and_MAX, BitVec.toNat_shiftLeft, Nat.shiftLeft_eq,
    Nat.mod_mod_of_dvd _ (Nat.pow_dvd_pow 2 (by decide))]

end Sys2Proof.Machine
end

section
/-! An accepted request is executed (R700, R810), and the one that `withFetchWord` offers is accepted (log entry 4). -/

namespace Sys2Proof.Machine

/-- R810: an edge accepts when no reset is driven, a request is offered and the block shows that it is ready. -/
theorem accepts_of_ready {s : State} (hr : (currentPins s).rst = false) (hv : (currentPins s).reqValid = true)
    (hq : reqReady s = true) : accepts s = true := by
  simp only [accepts, hr, hv, hq, Bool.not_false, Bool.and_self]

/-- Settles O7: the premises are those of acceptance, and the record update is what `advance` does. -/
theorem stepExecutesTheDecodedInstruction : Obligations.Step_executes_the_decoded_instruction :=
  fun s i hb hn hr hv hq hd => step_of_accepts s i hb hn (accepts_of_ready hr hv hq) hd

/-- What the host offers stands on the port as it is (R110). -/
@[simp] theorem request_offer (r : Request) : (offer r).request = r := by
  simp only [offer, HostPins.request, words_hi_lo]

theorem decode_of_decodeTableWord {n w : Nat} {i : Instr} (h : decodeTableWord n w = some i) :
    decode ⟨BitVec.ofNat 8 (w % 2 ^ n), 0, 0⟩ = .ok i := by
  unfold decodeTableWord at h
  cases hd : decode ⟨BitVec.ofNat 8 (w % 2 ^ n), 0, 0⟩ with
  | ok j => rw [hd] at h; exact congrArg Except.ok (Option.some.inj h)
  | error e => rw [hd] at h; cases h

theorem withFetchWord_pins (s : State) (n w : Nat) :
    (s.withFetchWord n w).pins = offer ⟨BitVec.ofNat 8 (w % 2 ^ n), 0, 0⟩ :: s.pins.tail := by
  unfold State.withFetchWord; split <;> rfl

theorem withFetchWord_config (s : State) (n w : Nat) : (s.withFetchWord n w).config = s.config := by
  unfold State.withFetchWord; split <;> rfl

/-- The block was ready, or has been put in the state that reset leaves. -/
theorem withFetchWord_ready (s : State) (n w : Nat) :
    (s.withFetchWord n w).beforeFirstReset = false ∧ refusedStatus (s.withFetchWord n w).status = none ∧
      blockReady (s.withFetchWord n w) = true := by
  unfold State.withFetchWord
  split
  case isTrue h =>
    simp only [Bool.and_eq_true, Bool.not_eq_true', Option.isNone_iff_eq_none] at h
    obtain ⟨⟨hb, hready⟩, hn⟩ := h
    exact ⟨hb, hn, hready⟩
  case isFalse =>
    have hf : statusFaulted 0x00 = false := by decide
    have hn : refusedStatus 0x00 = none := by decide
    exact ⟨rfl, hn, blockReady_of_txn_none hf rfl⟩

/-- Settles O8: the word's request is in front of the host's signals, and the block is ready for it. -/
theorem fetchWordIsExecutedByTheNextStep : Obligations.Fetch_word_is_executed_by_the_next_step := by
  intro s w i hw
  have hpins := withFetchWord_pins s 8 w
  have hcur : currentPins (s.withFetchWord 8 w) = offer ⟨BitVec.ofNat 8 (w % 2 ^ 8), 0, 0⟩ := by
    rw [currentPins, hpins, List.headD_cons]
  obtain ⟨hb, hn, hready⟩ := withFetchWord_ready s 8 w
  have hq : reqReady (s.withFetchWord 8 w) = true := by
    rw [reqReady_of_reset _ hb, hcur, hready]; rfl
  have ha : accepts (s.withFetchWord 8 w) = true :=
    accepts_of_ready (congrArg HostPins.rst hcur) (congrArg HostPins.reqValid hcur) hq
  refine ⟨advance (s.withFetchWord 8 w), step_of_accepts _ i hb hn ha ?_, ?_, withFetchWord_config s 8 w⟩
  · rw [hcur, request_offer]; exact decode_of_decodeTableWord hw
  · rw [advance_pins, hpins, List.tail_cons]

end Sys2Proof.Machine
end

section
/-! The faults of instructions (spec/60_exceptions.md sections 1 to 3): which instruction faults, with which cause, and what
it writes. -/

namespace Sys2Proof.Machine

/-- STATUS after a request is accepted: written at once only by a fault with a latency of at most 1 (R710, log entries 1
and 11). -/
theorem launch_status (c : OpClass) (r : Response) (s : State) :
    (launch c r s).status =
      if s.config.latency c ≤ 1 ∧ r.err = true then faultStatus r.cause else s.status := by
  rw [launch, arrive_status]
  simp only [Nat.sub_eq_zero_iff_le]

/-- The response of an instruction, fault or not (R700, R705). -/
theorem response_of_exec {i : Instr} {s t : State} {w : Nat} {r : Response} (h : exec i s = .next t)
    (ht : t.txn = some ⟨w, r⟩) :
    (i ≠ .abs MIN ∧ r.err = false ∧ r.cause = 0) ∨ (i = .abs MIN ∧ r.err = true ∧ r.cause = 1) := by
  by_cases hi : i = .abs MIN
  · subst hi
    rw [exec_abs_MIN] at h; cases h
    rw [launch_txn] at ht; cases ht
    exact .inr ⟨rfl, rfl, rfl⟩
  · obtain ⟨y, y2, f, hx, -⟩ := exec_answered i hi s
    rw [hx] at h; cases h
    cases ht
    exact .inl ⟨hi, rfl, rfl⟩

/-- Settles O22: an instruction launches one transaction, and only a fault's writes STATUS. -/
theorem instructionsLeaveEverythingElseUnchanged : Obligations.Instructions_leave_everything_else_unchanged := by
  intro i s t h
  obtain ⟨r, hx, hr⟩ := exec_cases i s
  rw [hx] at h; cases h
  refine ⟨launch_config s _ r, launch_pins s _ r, launch_freeIndex s _ r, launch_beforeFirstReset s _ r, ?_⟩
  rw [launch_status]
  obtain ⟨he, -⟩ | ⟨rfl, he, hc⟩ := hr
  · exact .inl (if_neg fun h => Bool.false_ne_true (he.symm.trans h.2))
  · by_cases hl : s.config.latency .add ≤ 1
    · exact .inr ⟨rfl, hl, by rw [if_pos ⟨hl, he⟩, hc]; decide⟩
    · exact .inl (if_neg fun h => hl h.1)

/-- Settles O26: the two kinds of response exclude each other. -/
theorem onlyAbsOfMINFaults : Obligations.Only_ABS_of_MIN_faults := by
  intro i s t w r h ht
  obtain ⟨hi, he, hc⟩ | ⟨hi, he, hc⟩ := response_of_exec h ht
  · exact ⟨iff_of_false (by simp [he]) hi, by simp [he], fun _ => hc⟩
  · exact ⟨iff_of_true he hi, fun _ => hc, by simp [he]⟩

theorem shiftHelper_eq_error_iff (v : Word128) (k : Nat) :
    shiftHelper v k = .error .shiftHelperRange ↔ ¬ (1 ≤ k ∧ k < 64) := by
  unfold shiftHelper
  split
  case isTrue h => exact iff_of_false nofun (not_not_intro h)
  case isFalse h => exact iff_of_true rfl h

/-- Settles O31: DIVMOD128, the helper's shifts included, is signed division (R550, R558), and the causes of instructions
are 0 and 1. -/
theorem noRequestRaisesShiftHelperRange : Obligations.No_request_raises_SHIFT_HELPER_RANGE := by
  refine ⟨shiftHelper_eq_error_iff, fun x d => ⟨_, _, divmod128_eq x d⟩, fun i s t w r h ht => ?_⟩
  obtain ⟨-, -, hc⟩ | ⟨-, -, hc⟩ := response_of_exec h ht <;> rw [hc] <;> decide

end Sys2Proof.Machine
end

section
/-! Fault entry (R710), the FAULTED block (R711 to R713) and its line `fault_irq` (R730). -/

namespace Sys2Proof.Machine

/-! ### The edges with a next state, and the first reset -/

theorem refusedStatus_eq_none_of_legal {st : BitVec 8} (h : LegalStatus st) : refusedStatus st = none := by
  obtain ⟨hres, ⟨-, hc⟩ | ⟨-, hc | hc⟩⟩ := h
  all_goals exact (refusedStatus_eq_none_iff st).2 ⟨hres, by rw [hc]; decide⟩

/-- Settles O14: a legal STATUS is not refused, and `step` refuses nothing else. -/
theorem aLegalStateAlwaysHasANextState : Obligations.A_legal_state_always_has_a_next_state :=
  fun s h => step_next s (.inr (.inr (refusedStatus_eq_none_of_legal h.status)))

/-- An edge that accepts nothing does not undo the first reset. -/
@[simp] theorem tick_beforeFirstReset (s : State) : (tick s).beforeFirstReset = s.beforeFirstReset := by
  obtain ⟨-, e⟩ | ⟨r, -, e⟩ | ⟨w, r, -, e⟩ := tick_cases s <;> simp [e]

theorem beforeFirstReset_of_step {s t : State} (hb : s.beforeFirstReset = false) (h : step s = .next t) :
    t.beforeFirstReset = false := by
  obtain ⟨-, rfl⟩ | ⟨-, hb', -⟩ | ⟨-, -, -, -, c, r, rfl, -⟩ | ⟨-, -, -, -, rfl⟩ := step_cases h
  case inl => rfl
  case inr.inl => rw [hb] at hb'; cases hb'
  case inr.inr.inl => rw [launch_beforeFirstReset]; exact hb
  case inr.inr.inr => rw [tick_beforeFirstReset]; exact hb

/-! ### Fault entry -/

/-- A transaction after an edge has just been launched or has come one edge nearer: the one way to it is `arrive`, after the
first reset. -/
theorem exists_arrive_of_step {s t : State} {x : Transaction} (h : step s = .next t) (hx : t.txn = some x) :
    t.beforeFirstReset = false ∧ ∃ u, t = arrive x u := by
  obtain ⟨-, rfl⟩ | ⟨-, -, rfl⟩ | ⟨-, hb, -, -, c, r, rfl, -⟩ | ⟨-, hb, -, -, rfl⟩ := step_cases h
  case inl => cases hx
  case inr.inl => cases hx
  case inr.inr.inl =>
    rw [launch_txn] at hx; cases hx
    exact ⟨(launch_beforeFirstReset _ c r).trans hb, advance s, rfl⟩
  case inr.inr.inr =>
    refine ⟨(tick_beforeFirstReset _).trans hb, advance s, ?_⟩
    obtain ⟨htxn, e⟩ | ⟨r, -, e⟩ | ⟨w, r, -, e⟩ := tick_cases (advance s) <;> rw [e] at hx ⊢
    · rw [htxn] at hx; cases hx
    · cases hx
    · rw [arrive_txn] at hx; cases hx; rfl

/-- R711: a FAULTED block is not ready. -/
theorem reqReady_of_faulted {s : State} (hb : s.beforeFirstReset = false) (hf : statusFaulted s.status = true) :
    reqReady s = false := by
  simp [reqReady_of_reset s hb, blockReady, hf]

theorem accepts_of_faulted {s : State} (hb : s.beforeFirstReset = false) (hf : statusFaulted s.status = true) :
    accepts s = false := by
  simp [accepts, reqReady_of_faulted hb hf]

/-- Settles O27: fault entry is the one way to a fault's response cycle, and the ports show it. -/
theorem faultEntryWritesStatus : Obligations.Fault_entry_writes_STATUS := by
  intro s t r h ht he
  obtain ⟨hb, u, hu⟩ := exists_arrive_of_step h ht
  have hst : t.status = faultStatus r.cause := by rw [hu, arrive_status, if_pos ⟨rfl, he⟩]
  have hf : statusFaulted t.status = true := by rw [hst, statusFaulted_faultStatus]
  refine ⟨hf, by rw [hst, statusCause_faultStatus], by rw [hst, statusReserved_faultStatus], reqReady_of_faulted hb hf,
    (faultIrq_of_reset t hb).trans hf, fun hr => ?_⟩
  have hp : presented t = some r := presented_eq_some_iff.2 ⟨hb, hr, ht⟩
  simp only [outputs, rspValid_of_reset t hb, responseLines, hp, Option.isSome_some, he, and_self]

/-! ### The FAULTED block -/

/-- One edge without reset of a FAULTED block: its last response cycle, if it is in one, ends (R111), and nothing else
happens. -/
theorem step_of_faulted {s : State} (h : Inv s) (hf : statusFaulted s.status = true) (hr : (currentPins s).rst = false) :
    step s = .next { advance s with txn := none } := by
  rw [step_of_not_accepts s h.reset hr (refusedStatus_eq_none_of_legal h.status) (accepts_of_faulted h.reset hf)]
  congr 1
  obtain ⟨htxn, e⟩ | ⟨r, -, e⟩ | ⟨w, r, htxn, -⟩ := tick_cases (advance s)
  · rw [e, ← htxn]
  · exact e
  · cases hf.symm.trans (h.statusFaulted_of_waiting htxn)

theorem currentPins_eq_pinsAt_zero (s : State) : currentPins s = pinsAt s 0 := by
  cases hp : s.pins <;> simp [currentPins, pinsAt, hp]

theorem pinsAt_of_pins_eq_tail {s t : State} (h : t.pins = s.pins.tail) (j : Nat) : pinsAt t j = pinsAt s (j + 1) := by
  cases hp : s.pins <;> simp [pinsAt, h, hp]

/-- Any number of edges without reset of a FAULTED block: it keeps the invariant and STATUS, and has no transaction after
the first of them. -/
theorem edges_of_faulted (n : Nat) {s : State} (h : Inv s) (hf : statusFaulted s.status = true)
    (hr : ∀ j, j < n → (pinsAt s j).rst = false) :
    ∃ t, edges n s = .next t ∧ Inv t ∧ t.status = s.status ∧ (s.txn = none ∨ 0 < n → t.txn = none) := by
  induction n generalizing s with
  | zero => exact ⟨s, edges_zero s, h, rfl, fun hn => hn.resolve_right (Nat.lt_irrefl 0)⟩
  | succ n ih =>
    have hs := step_of_faulted h hf (by rw [currentPins_eq_pinsAt_zero]; exact hr 0 n.succ_pos)
    obtain ⟨t, ht, hinv, hst, htxn⟩ := ih (h.advance.withoutTxn) hf fun j hj => by
      rw [pinsAt_of_pins_eq_tail (s := s) rfl]; exact hr (j + 1) (Nat.succ_lt_succ hj)
    exact ⟨t, (edges_succ n hs).trans ht, hinv, hst, fun _ => htxn (.inl rfl)⟩

/-- Settles O28: the ports of the FAULTED block that these edges lead to. -/
theorem aFaultedBlockIsStuckUntilReset : Obligations.A_FAULTED_block_is_stuck_until_reset := by
  intro s n h hf hr
  obtain ⟨t, ht, hinv, hst, htxn⟩ := edges_of_faulted n h hf hr
  have hft : statusFaulted t.status = true := by rw [hst, hf]
  exact ⟨t, ht, hst, reqReady_of_faulted hinv.reset hft, accepts_of_faulted hinv.reset hft,
    fun hn => ⟨htxn (.inr hn), rspValid_of_txn_none hinv.reset (htxn (.inr hn))⟩⟩

/-! ### The line `fault_irq` -/

/-- Settles O30: the line changes only with STATUS, so at reset, which clears it, or at a fault, which sets it. -/
theorem theFaultLineFollowsFaulted : Obligations.The_fault_line_follows_FAULTED := by
  refine ⟨fun s hb => ?_, fun s t hb h => ?_⟩
  · have hst := stStatus_of_reset s hb
    exact ⟨(faultIrq_of_reset s hb).trans (by rw [← hst]; rfl), hst⟩
  have hbt := beforeFirstReset_of_step hb h
  simp only [outputs, faultIrq_of_reset s hb, faultIrq_of_reset t hbt, stStatus_of_reset t hbt]
  by_cases hne : t.status = s.status
  · rw [hne]
    exact ⟨fun h0 h1 => absurd (h0.symm.trans h1) Bool.false_ne_true,
      fun h1 h0 => absurd (h0.symm.trans h1) Bool.false_ne_true⟩
  obtain ⟨hr, hst⟩ | ⟨r, ht, he, hst⟩ := statusChangesOnlyAtAFaultAndAtReset s t hb h hne
  · refine ⟨fun _ h1 => ?_, fun _ _ => hr⟩
    rw [hst] at h1; cases h1
  · refine ⟨fun _ _ => ⟨r, ht, he, by rw [hst, statusCause_faultStatus]⟩, fun _ h0 => ?_⟩
    rw [hst, statusFaulted_faultStatus] at h0; cases h0

end Sys2Proof.Machine
end

section
/-! Reset (R800, R801), the edges that are refused (log entry 9), the free outputs before the first reset (R802), and
requests that are not accepted (R810). -/

namespace Sys2Proof.Machine

/-! ### The kinds of edges -/

/-- R800: no response is presented while `rst` is driven. -/
theorem presented_of_rst {s : State} (hr : (currentPins s).rst = true) : presented s = none := by simp [presented, hr]

/-- R802: no response is presented before the first reset. -/
theorem presented_of_beforeFirstReset {s : State} (hb : s.beforeFirstReset = true) : presented s = none := by
  simp [presented, hb]

/-- I8, I9: an edge without reset, after the first reset, that `step` refuses. -/
theorem step_of_refusedStatus {s : State} {r : Refusal} (hb : s.beforeFirstReset = false)
    (hr : (currentPins s).rst = false) (hn : refusedStatus s.status = some r) : step s = .refused r := by
  unfold step; rw [hr, hb, hn]; rfl

/-- `step` refuses no other edge. -/
theorem step_refused_iff (s : State) : (∃ r, step s = .refused r) ↔
    s.beforeFirstReset = false ∧ (currentPins s).rst = false ∧ refusedStatus s.status ≠ none := by
  refine ⟨fun ⟨r, hs⟩ => ?_, fun ⟨hb, hr, hn⟩ => ?_⟩
  · have hno : ¬ ((currentPins s).rst = true ∨ s.beforeFirstReset = true ∨ refusedStatus s.status = none) := by
      intro h
      obtain ⟨t, ht⟩ := step_next s h
      rw [hs] at ht; cases ht
    simp only [not_or, Bool.not_eq_true] at hno
    obtain ⟨hr, hb, hn⟩ := hno
    exact ⟨hb, hr, hn⟩
  · obtain ⟨r, h⟩ := Option.ne_none_iff_exists'.1 hn
    exact ⟨r, step_of_refusedStatus hb hr h⟩

/-- The STATUS values that are never produced, as numbers: a bit of 7:5 set, or a CAUSE of 4 or more (R120, R701). -/
theorem refusedStatus_ne_none_iff (st : BitVec 8) :
    refusedStatus st ≠ none ↔ 32 ≤ st.toNat ∨ 8 ≤ st.toNat % 32 := by
  revert st; decide

/-- Of what the host drives in this cycle, an edge that accepts nothing reads `rst` alone (R810). -/
theorem step_eq_of_not_accepts {s u : State} (hadv : advance s = advance u)
    (hrst : (currentPins s).rst = (currentPins u).rst) (hs : accepts s = false) (hu : accepts u = false) :
    step s = step u := by
  have hbs : s.beforeFirstReset = u.beforeFirstReset := by simpa using congrArg State.beforeFirstReset hadv
  have hst : s.status = u.status := by simpa using congrArg State.status hadv
  cases hr : (currentPins u).rst with
  | true => rw [step_of_rst s (hrst.trans hr), step_of_rst u hr, hadv]
  | false =>
    cases hb : u.beforeFirstReset with
    | true => rw [step_of_beforeFirstReset s (hrst.trans hr) (hbs.trans hb), step_of_beforeFirstReset u hr hb, hadv]
    | false =>
      cases hn : refusedStatus u.status with
      | some r =>
        rw [step_of_refusedStatus (hbs.trans hb) (hrst.trans hr) (hst ▸ hn), step_of_refusedStatus hb hr hn]
      | none =>
        rw [step_of_not_accepts s (hbs.trans hb) (hrst.trans hr) (hst ▸ hn) hs, step_of_not_accepts u hb hr hn hu, hadv]

/-! ### The words on the response port (R110, R111) -/

theorem rspY_outputs (s : State) : (outputs s).rspYHi ++ (outputs s).rspYLo = (responseLines s).y := words_hi_lo _

theorem rspY2_outputs (s : State) : (outputs s).rspY2Hi ++ (outputs s).rspY2Lo = (responseLines s).y2 := words_hi_lo _

/-! ### Settlements -/

/-- Settles O10: every port reads `rst`, and so does the edge, before anything else. -/
theorem drivingRstBlocksBothPorts : Obligations.Driving_rst_blocks_both_ports := by
  intro s hr
  refine ⟨fun hb => ⟨?_, ?_⟩, ?_, step_of_rst s hr⟩
  · show reqReady s = false
    simp [reqReady_of_reset s hb, hr]
  · show rspValid s = false
    rw [rspValid_of_reset s hb, presented_of_rst hr, Option.isSome_none]
  · simp [accepts, hr]

/-- Settles O15: a refusal is one of STATUS. -/
theorem stepRefusesOnlyAStatusNeverProduced : Obligations.Step_refuses_only_a_STATUS_never_produced :=
  fun s => by rw [step_refused_iff, refusedStatus_ne_none_iff]

/-- Settles O17: acceptance is what the ports show, and the two states differ in the request alone. -/
theorem aRequestNotAcceptedHasNoEffect : Obligations.A_request_not_accepted_has_no_effect := by
  refine ⟨fun s => ?_, fun s p q ps hrst hp hq => step_eq_of_not_accepts rfl hrst hp hq⟩
  simp only [accepts, outputs, Bool.and_eq_true, Bool.not_eq_true']
  tauto

/-- Settles O54: the ports read the free values, and only an edge without reset stays before the first reset. -/
theorem beforeTheFirstResetEveryOutputIsFree : Obligations.Before_the_first_reset_every_output_is_free := by
  refine ⟨fun s hb => ?_, fun s hb hr => ?_, fun s t h => ?_⟩
  · have hl : responseLines s = ⟨Config.idleY s.freeIndex, Config.idleY2 s.freeIndex, Config.idleF s.freeIndex,
        Config.idleErr s.freeIndex, Config.idleCause s.freeIndex⟩ := by
      rw [responseLines, presented_of_beforeFirstReset hb]
    exact ⟨if_pos hb, if_pos hb, if_pos hb, if_pos hb, (rspY_outputs s).trans (congrArg Response.y hl),
      (rspY2_outputs s).trans (congrArg Response.y2 hl), congrArg Response.f hl, congrArg Response.err hl,
      congrArg Response.cause hl⟩
  · exact ⟨_, step_of_beforeFirstReset s hr hb, hb, _, rfl⟩
  · cases hb : s.beforeFirstReset with
    | false =>
      exact iff_of_false (by rw [beforeFirstReset_of_step hb h]; exact Bool.false_ne_true) (fun hc => nomatch hc.1)
    | true =>
      cases hr : (currentPins s).rst with
      | false => rw [step_of_beforeFirstReset s hr hb] at h; cases h; exact iff_of_true hb ⟨rfl, rfl⟩
      | true => rw [step_of_rst s hr] at h; cases h; exact iff_of_false nofun (fun hc => nomatch hc.2)

end Sys2Proof.Machine
end

section
/-! Runs of edges: the idle block to which no request is offered (R801), and the latency from acceptance to response (R811,
R830). -/

namespace Sys2Proof.Machine

/-! ### Runs -/

/-- What every edge keeps, every run of edges keeps. -/
theorem edges_induction {P : State → Prop} (hP : ∀ s t, P s → step s = .next t → P t) (n : Nat) {s u : State}
    (hs : P s) (h : edges n s = .next u) : P u := by
  induction n generalizing s with
  | zero => rw [edges_zero] at h; cases h; exact hs
  | succ n ih =>
    obtain ⟨t, ht, h⟩ := edges_succ_next n h
    exact ih (hP s t hs ht) h

theorem pinsAt_of_step {s t : State} (h : step s = .next t) (j : Nat) : pinsAt t j = pinsAt s (j + 1) :=
  pinsAt_of_pins_eq_tail (anEdgeKeepsTheParameters s t h).2.1 j

/-! ### No request is offered -/

/-- After the first reset, no transaction is in progress, and the host offers no request from this cycle on. -/
structure Unasked (s : State) : Prop where
  reset : s.beforeFirstReset = false
  txn : s.txn = none
  pins : ∀ j, (pinsAt s j).reqValid = false

/-- With no request to accept, an edge is a reset or starts no transaction. -/
theorem Unasked.step {s t : State} (h : Unasked s) (hs : step s = .next t) : Unasked t := by
  refine ⟨beforeFirstReset_of_step h.reset hs, ?_, fun j => by rw [pinsAt_of_step hs]; exact h.pins (j + 1)⟩
  obtain ⟨-, rfl⟩ | ⟨-, hb, -⟩ | ⟨-, -, -, ha, -⟩ | ⟨-, -, -, -, rfl⟩ := step_cases hs
  case inl => rfl
  case inr.inl => rw [h.reset] at hb; cases hb
  case inr.inr.inl => simp [accepts, currentPins_eq_pinsAt_zero, h.pins 0] at ha
  case inr.inr.inr => rw [tick_of_txn_none (advance s) h.txn]; exact h.txn

/-- Settles O11: the reset edge leaves a block that stays idle unless it is asked; and STATUS is cleared by reset alone. -/
theorem onlyResetLeavesFaulted : Obligations.Only_reset_leaves_FAULTED := by
  refine ⟨fun s hr => ⟨_, step_of_rst s hr, rfl, ?_, rfl⟩, fun s u n hr hv h => ?_, fun s t hb h hf hf' => ?_⟩
  · show faultIrq (applyReset (advance s)) = false
    rw [faultIrq_of_reset _ rfl, applyReset_status]
    decide
  · have hs := step_of_rst s hr
    have hidle : Unasked (applyReset (advance s)) :=
      ⟨rfl, rfl, fun j => by rw [pinsAt_of_step hs]; exact hv (j + 1) (Nat.succ_pos j)⟩
    rw [edges_succ n hs] at h
    have hu := edges_induction (fun _ _ => Unasked.step) n hidle h
    exact rspValid_of_txn_none hu.reset hu.txn
  · have hne : t.status ≠ s.status := fun e => by rw [e, hf] at hf'; cases hf'
    obtain ⟨hr, -⟩ | ⟨r, -, -, hst⟩ := statusChangesOnlyAtAFaultAndAtReset s t hb h hne
    · exact hr
    · rw [hst, statusFaulted_faultStatus] at hf'; cases hf'

/-! ### The latency of a class (R830) -/

/-- The latency that R830 lists for a mnemonic is that of the instruction's class. -/
theorem latency_opClass (i : Instr) (k : Config) :
    k.latency i.opClass =
      if i.mnemonic ∈ ["EQ", "NE", "LT", "LE", "GT", "GE", "TRUTH", "LNOT"] then k.latencies.cmp
      else if i.mnemonic ∈ ["ADD", "SUB", "NEG", "ABS"] then k.latencies.add
      else if i.mnemonic = "SEXT64" then k.latencies.misc
      else if i.mnemonic = "MUL" then k.latencies.mul
      else if i.mnemonic ∈ ["DIV", "REM"] then k.latencies.div
      else if i.mnemonic ∈ ["SRA", "SLL"] then k.latencies.shift
      else k.latencies.logic := by
  cases i <;> rfl

/-- Settles O24: every instruction launches one transaction in its class. -/
theorem theLatencyIsThatOfTheClass : Obligations.The_latency_is_that_of_the_class := by
  refine ⟨fun s => ⟨_, _, rfl, launch_txn s .misc _⟩, fun i s => ?_⟩
  obtain ⟨r, hx, -⟩ := exec_cases i s
  exact ⟨_, r, hx, by rw [launch_txn, latency_opClass]⟩

/-! ### From acceptance to response (R811) -/

/-- The edge that accepts a request launches one transaction, in the class of its instruction, or in MISC with the fault
ILLEGAL_CMD if it selects none (R320). -/
theorem step_launch_of_accepts {s : State} {c : OpClass} (hb : s.beforeFirstReset = false)
    (hn : refusedStatus s.status = none) (ha : accepts s = true)
    (hok : ∀ i, decode (currentPins s).request = .ok i → c = i.opClass)
    (herr : (∃ e, decode (currentPins s).request = .error e) → c = .misc) :
    ∃ r, step s = .next (launch c r (advance s)) ∧
      (∀ i, decode (currentPins s).request = .ok i → exec i (advance s) = .next (launch c r (advance s))) ∧
      ((∃ e, decode (currentPins s).request = .error e) → r.err = true ∧ r.cause = 2) := by
  cases hd : decode (currentPins s).request with
  | ok i =>
    obtain rfl := hok i hd
    obtain ⟨r, hx, -⟩ := exec_cases i (advance s)
    refine ⟨r, (step_of_accepts s i hb hn ha hd).trans hx, fun j hj => ?_, nofun⟩
    cases hj; exact hx
  | error e =>
    obtain rfl := herr ⟨e, hd⟩
    exact ⟨_, step_of_accepts_reserved hb hn ha hd, nofun, fun _ => ⟨rfl, rfl⟩⟩

/-- Any number of edges without reset up to the response cycle of a transaction: each brings it one edge nearer. -/
theorem edges_of_waiting (n : Nat) {s : State} {w : Nat} {r : Response} (h : Inv s) (ht : s.txn = some ⟨w + n, r⟩)
    (hr : ∀ j, j < n → (pinsAt s j).rst = false) :
    ∃ u, edges n s = .next u ∧ Inv u ∧ u.txn = some ⟨w, r⟩ ∧ ∀ j, pinsAt u j = pinsAt s (j + n) := by
  induction n generalizing s with
  | zero => exact ⟨s, edges_zero s, h, ht, fun _ => rfl⟩
  | succ n ih =>
    have hr0 : (currentPins s).rst = false := by rw [currentPins_eq_pinsAt_zero]; exact hr 0 n.succ_pos
    obtain ⟨t, hs, htt⟩ :=
      (aBusyBlockAcceptsNothing s (w + n) r h.reset ht).2 hr0 (refusedStatus_eq_none_of_legal h.status)
    obtain ⟨u, hu, hinv, htu, hp⟩ := ih (everyEdgeKeepsTheInvariant s t h hs) htt fun j hj => by
      rw [pinsAt_of_step hs]; exact hr (j + 1) (Nat.succ_lt_succ hj)
    exact ⟨u, (edges_succ n hs).trans hu, hinv, htu, fun j => by rw [hp, pinsAt_of_step hs, Nat.add_assoc]⟩

/-- In the response cycle the block is FAULTED exactly when the transaction faulted (R710, R811). -/
theorem Inv.statusFaulted_eq_err {s : State} {r : Response} (h : Inv s) (ht : s.txn = some ⟨0, r⟩) :
    statusFaulted s.status = r.err := by
  rw [Bool.eq_iff_iff]
  exact ⟨fun hf => (h.faulted _ ht hf).2, fun he => by rw [h.cause _ ht rfl he, statusFaulted_faultStatus]⟩

/-- The ready line while a transaction is in progress (R811). -/
theorem Inv.reqReady_of_txn {s : State} {w : Nat} {r : Response} (h : Inv s) (ht : s.txn = some ⟨w, r⟩)
    (hr : (currentPins s).rst = false) : reqReady s = (decide (w = 0) && !r.err) := by
  rw [reqReady_of_reset s h.reset, hr]
  cases w with
  | zero => simp [blockReady, ht, h.statusFaulted_eq_err ht]
  | succ w => simp [blockReady, ht]

/-- The response line while a transaction is in progress (R811). -/
theorem Inv.rspValid_of_txn {s : State} {w : Nat} {r : Response} (h : Inv s) (ht : s.txn = some ⟨w, r⟩)
    (hr : (currentPins s).rst = false) : rspValid s = decide (w = 0) := by
  rw [rspValid_of_reset s h.reset]
  cases w with
  | zero => rw [presented_eq_some_iff.2 ⟨h.reset, hr, ht⟩]; rfl
  | succ w => simp [presented, hr, ht]

/-- Settles O19: the accepting edge launches the transaction, and k more edges bring it k edges nearer. -/
theorem theResponseComesInCycleLatMinusOne : Obligations.The_response_comes_in_cycle_LAT_minus_one := by
  intro s c L h ha hok herr hL hrst
  obtain ⟨r, hs, hx, he⟩ :=
    step_launch_of_accepts h.reset (refusedStatus_eq_none_of_legal h.status) ha hok herr
  have htxn : (launch c r (advance s)).txn = some ⟨L - 1, r⟩ := by rw [launch_txn, hL]; rfl
  refine ⟨r, fun i hi => ⟨_, hx i hi, htxn⟩, he, fun k hk => ?_⟩
  obtain ⟨u, hu, hinv, htu, hp⟩ :=
    edges_of_waiting k (w := L - 1 - k) (everyEdgeKeepsTheInvariant _ _ h hs)
      (by rw [htxn, Nat.sub_add_cancel (Nat.le_sub_one_of_lt hk)]) fun j hj => by
        rw [pinsAt_of_step hs]; exact hrst (j + 1) j.succ_pos (by omega)
  have hru : (currentPins u).rst = false := by
    rw [currentPins_eq_pinsAt_zero, hp, pinsAt_of_step hs]; exact hrst _ (Nat.succ_pos _) (by omega)
  have hlast : L - 1 - k = 0 ↔ k = L - 1 := by omega
  refine ⟨u, (edges_succ k hs).trans hu, htu, ?_, ?_, fun hkL => ?_⟩
  · rw [← decide_eq_decide.2 hlast]; exact hinv.rspValid_of_txn htu hru
  · rw [← decide_eq_decide.2 hlast]; exact hinv.reqReady_of_txn htu hru
  · have hpu : presented u = some r :=
      presented_eq_some_iff.2 ⟨hinv.reset, hru, by rw [htu, hlast.2 hkL]⟩
    have hl : responseLines u = r := by rw [responseLines, hpu]
    exact ⟨congrArg Response.err hl, congrArg Response.cause hl, (rspY_outputs u).trans (congrArg Response.y hl),
      (rspY2_outputs u).trans (congrArg Response.y2 hl), congrArg Response.f hl⟩

end Sys2Proof.Machine
end
